-- ==== Sys2Proof/Word.lean ====
section
/-! DEFINITION. The words of the FDCT-JPEG unit and one host register access. -/

namespace Sys2Proof

/-- A byte of the output RAM or of a table. -/
abbrev Byte := BitVec 8

/-- A 32-bit register value, command word or pixel word (20_memory.md R60, R61). -/
abbrev Word := BitVec 32

/-- An IEEE 754 binary64 value as its 64 bits (00_scope.md R9). -/
abbrev F64 := BitVec 64

/-- The two kinds of host access, `MemRead` and `MemWrite` (20_memory.md R60). -/
inductive AccessKind where
  | read
  | write
deriving DecidableEq, Repr

/-- One host access to the register space: its kind, its byte offset in the 4096-byte space, its width in bytes, and
the value a write carries (20_memory.md R60, R72). A read carries 0. -/
structure Access where
  kind : AccessKind
  off  : BitVec 12
  size : Nat
  data : Word
deriving DecidableEq, Repr

end Sys2Proof
end

