-- ==== Sys2Proof/Config.lean ====
section
/-! DEFINITION. The parameters of a realisation (00_scope.md R6, 93_implementation_defined.md §2) and the free values. -/

namespace Sys2Proof

/-- What TAIL writes when no bits are pending, `TAIL_PAD_WHEN_ALIGNED` (00_scope.md R6, 44_bitwriter.md R266). -/
inductive TailPad where
  | none
  | fullByte
deriving DecidableEq, Repr

/-- The implementation parameters a model takes as arguments (00_scope.md R6). -/
structure Params where
  /-- `MAX_PIXELS`: words of pixel RAM -/
  maxPixels : Nat
  /-- `MAX_OUT`: bytes of output RAM -/
  maxOut : Nat
  /-- `RESET_QUALITY` -/
  resetQuality : Byte
  /-- `TAIL_PAD_WHEN_ALIGNED` -/
  tailPad : TailPad
deriving DecidableEq, Repr

/-- The ranges of the parameters (00_scope.md R6, 10_state.md R44). -/
def Params.wf (p : Params) : Bool :=
  decide (1 ≤ p.maxPixels) && decide (p.maxPixels < 2 ^ 32) && decide (611 ≤ p.maxOut) && decide (p.maxOut < 2 ^ 32) &&
    decide (1 ≤ p.resetQuality.toNat) && decide (p.resetQuality.toNat ≤ 100)

/-- How far `MAX_PIXELS` lies above its least value 1: OPEN (93_implementation_defined.md PM1, log entry 3). -/
opaque Config.spareMaxPixels : Fin 4294967295

/-- How far `MAX_OUT` lies above its least value 611: OPEN (93_implementation_defined.md PM2, log entry 3). -/
opaque Config.spareMaxOut : Fin 4294966685

/-- `UNIT_BASE`, the place of the register space in the host's address map: OPEN (20_memory.md R60, log entry 17). -/
opaque Config.unitBase : Nat

/-- A pixel word that the host has not written since reset number `epoch` reads any value, possibly another one after
each reset (93_implementation_defined.md U1, 20_memory.md R62): a free value, log entry 4. -/
opaque Config.pixFree : (epoch : Nat) → (index : Nat) → Word

/-- The parameters of the machine `State.reset` describes: the two open ones are uninterpreted constants in their
ranges, the two others have their default values (00_scope.md R6). -/
def Config.params : Params where
  maxPixels := Config.spareMaxPixels.val + 1
  maxOut := Config.spareMaxOut.val + 611
  resetQuality := 50#8
  tailPad := .none

end Sys2Proof
end

