-- ==== Sys2Proof/Syntax.lean ====
section
/-! DEFINITION. The instructions of the unit: one constructor per row of spec/opcode_table.json. -/

namespace Sys2Proof

/-- The seven commands (30_encoding.md R93) and the thirty-three register accesses (40_commands.md R130 to R147).
A register write carries the word written; a window read carries its index `k` (40_commands.md R147). -/
inductive Instr where
  /-- R110 -/
  | nop
  /-- R111; `imm` is IMM16 -/
  | setQuality (imm : BitVec 16)
  /-- R112 -/
  | start
  /-- R113 -/
  | block
  /-- R114 -/
  | tail
  /-- R115 -/
  | stop
  /-- R116 -/
  | dispose
  /-- R132 -/
  | rdId
  /-- R132 -/
  | rdCapPix
  /-- R132 -/
  | rdCapOut
  /-- R118 -/
  | wrCmd (w : Word)
  /-- R133 -/
  | rdCmd
  /-- R134 -/
  | rdStatus
  /-- R135 -/
  | wrStatus (v : Word)
  /-- R130, R47 -/
  | rdErrCode
  /-- R136 -/
  | rdIrqEn
  /-- R136 -/
  | wrIrqEn (v : Word)
  /-- R137 -/
  | rdQuality
  /-- R138 -/
  | rdWidth
  /-- R138 -/
  | wrWidth (v : Word)
  /-- R138 -/
  | rdHeight
  /-- R138 -/
  | wrHeight (v : Word)
  /-- R138 -/
  | rdPixAddr
  /-- R138 -/
  | wrPixAddr (v : Word)
  /-- R139 -/
  | wrPixData (v : Word)
  /-- R139 -/
  | rdPixData
  /-- R140 -/
  | rdCurX
  /-- R140 -/
  | rdCurY
  /-- R140 -/
  | rdPixDone
  /-- R140 -/
  | rdPixTotal
  /-- R141 -/
  | rdOutLen
  /-- R142 -/
  | rdOutAddr
  /-- R142 -/
  | wrOutAddr (v : Word)
  /-- R144 -/
  | rdOutData
  /-- R145 -/
  | rdPredY
  /-- R145 -/
  | rdPredCb
  /-- R145 -/
  | rdPredCr
  /-- R146 -/
  | rdBitacc
  /-- R147; the register at 0x100 + 4k -/
  | rdQtY (k : BitVec 6)
  /-- R147; the register at 0x200 + 4k -/
  | rdQtC (k : BitVec 6)
deriving DecidableEq, Repr

end Sys2Proof
end

