-- ==== Sys2Proof/WellFormed.lean ====
section
/-! DEFINITION. Which terms of Instr the decoder can give. -/

namespace Sys2Proof

/-- Whether a word written to CMD is a legal command (30_encoding.md R95, R96): an opcode of at most 0x06, the
reserved bits 15:8 zero, and IMM16 zero but for SET_QUALITY. -/
def legalCommand (w : Word) : Bool :=
  decide ((w.extractLsb' 0 8).toNat ≤ 0x06) && w.extractLsb' 8 8 == 0#8 &&
    (w.extractLsb' 0 8 == 0x01#8 || w.extractLsb' 16 16 == 0#16)

/-- Every operand field has the width the spec gives it, so one check is left: a CMD write with a legal word IS that
command (30_encoding.md R93), so the term `wrCmd w` is well formed for the other words alone (log entry 12). -/
def WellFormed : Instr → Bool
  | .wrCmd w => !legalCommand w
  | .nop | .setQuality _ | .start | .block | .tail | .stop | .dispose
  | .rdId | .rdCapPix | .rdCapOut | .rdCmd | .rdStatus | .wrStatus _ | .rdErrCode | .rdIrqEn | .wrIrqEn _
  | .rdQuality | .rdWidth | .wrWidth _ | .rdHeight | .wrHeight _ | .rdPixAddr | .wrPixAddr _
  | .wrPixData _ | .rdPixData | .rdCurX | .rdCurY | .rdPixDone | .rdPixTotal | .rdOutLen | .rdOutAddr
  | .wrOutAddr _ | .rdOutData | .rdPredY | .rdPredCb | .rdPredCr | .rdBitacc | .rdQtY _ | .rdQtC _ => true

end Sys2Proof
end

