-- ==== Sys2Proof/Decode.lean ====
section
/-! DEFINITION. Decoding a host access to an instruction, and the encoder beside it. The unit fetches no instructions
(20_memory.md R80): what it decodes is the access the host performs, and, for a CMD write, the command word. -/

namespace Sys2Proof

/-- A command, as the command word decodes to it (30_encoding.md R93). -/
inductive Cmd where
  | nop
  | setQuality (imm : BitVec 16)
  | start
  | block
  | tail
  | stop
  | dispose
deriving DecidableEq, Repr

/-- The instruction a command is. -/
def Cmd.instr : Cmd → Instr
  | .nop => .nop
  | .setQuality imm => .setQuality imm
  | .start => .start
  | .block => .block
  | .tail => .tail
  | .stop => .stop
  | .dispose => .dispose

/-- Why an access is not admitted (20_memory.md R72). -/
inductive Reject where
  /-- the access is not 32 bits wide -/
  | width
  /-- offset bits 1:0 are not zero -/
  | misaligned
deriving DecidableEq, Repr

/-- What a host access is: an instruction of the table, one of the two accesses no row lists (40_commands.md R130,
R131; 10_state.md R57), or an access the spec does not admit (20_memory.md R72). -/
inductive Decoded where
  | instr (i : Instr)
  /-- a read of a reserved offset -/
  | reservedRead
  /-- a write to a read-only register or to a reserved offset -/
  | ignoredWrite
  | reject (r : Reject)
deriving DecidableEq, Repr

/-- `Decode(w)`, total on every word written to CMD; none is ILLEGAL (30_encoding.md R95). -/
def decodeCmd (w : Word) : Option Cmd :=
  let opc := w.extractLsb' 0 8
  let rsv := w.extractLsb' 8 8
  let imm := w.extractLsb' 16 16
  if 0x06 < opc.toNat then none
  else if rsv ≠ 0#8 then none
  else if opc ≠ 0x01#8 ∧ imm ≠ 0#16 then none
  else match opc.toNat with
    | 0x00 => some .nop
    | 0x01 => some (.setQuality imm)
    | 0x02 => some .start
    | 0x03 => some .block
    | 0x04 => some .tail
    | 0x05 => some .stop
    | 0x06 => some .dispose
    | _ => none

/-- The word of a command (30_encoding.md R90, R91, R93). -/
def encodeCmd : Cmd → Word
  | .nop => 0x00000000#32
  | .setQuality imm => imm ++ 0x0001#16
  | .start => 0x00000002#32
  | .block => 0x00000003#32
  | .tail => 0x00000004#32
  | .stop => 0x00000005#32
  | .dispose => 0x00000006#32

/-- A read at an offset that is a multiple of 4 (10_state.md R43). -/
def decodeRead (off : BitVec 12) : Decoded :=
  if off.extractLsb' 8 4 = 1#4 then .instr (.rdQtY (off.extractLsb' 2 6))
  else if off.extractLsb' 8 4 = 2#4 then .instr (.rdQtC (off.extractLsb' 2 6))
  else match off.toNat with
    | 0x000 => .instr .rdId
    | 0x004 => .instr .rdCapPix
    | 0x008 => .instr .rdCapOut
    | 0x010 => .instr .rdCmd
    | 0x014 => .instr .rdStatus
    | 0x018 => .instr .rdErrCode
    | 0x01C => .instr .rdIrqEn
    | 0x020 => .instr .rdQuality
    | 0x024 => .instr .rdWidth
    | 0x028 => .instr .rdHeight
    | 0x02C => .instr .rdPixAddr
    | 0x030 => .instr .rdPixData
    | 0x034 => .instr .rdCurX
    | 0x038 => .instr .rdCurY
    | 0x03C => .instr .rdPixDone
    | 0x040 => .instr .rdPixTotal
    | 0x044 => .instr .rdOutLen
    | 0x048 => .instr .rdOutAddr
    | 0x04C => .instr .rdOutData
    | 0x050 => .instr .rdPredY
    | 0x054 => .instr .rdPredCb
    | 0x058 => .instr .rdPredCr
    | 0x05C => .instr .rdBitacc
    | _ => .reservedRead

/-- A write of `v` at an offset that is a multiple of 4 (10_state.md R43). A CMD write is the command its word encodes,
and `wrCmd` where the word is ILLEGAL (40_commands.md R118, log entry 12). -/
def decodeWrite (off : BitVec 12) (v : Word) : Decoded :=
  match off.toNat with
  | 0x010 =>
    match decodeCmd v with
    | some c => .instr c.instr
    | none => .instr (.wrCmd v)
  | 0x014 => .instr (.wrStatus v)
  | 0x01C => .instr (.wrIrqEn v)
  | 0x024 => .instr (.wrWidth v)
  | 0x028 => .instr (.wrHeight v)
  | 0x02C => .instr (.wrPixAddr v)
  | 0x030 => .instr (.wrPixData v)
  | 0x048 => .instr (.wrOutAddr v)
  | _ => .ignoredWrite

/-- Whether an access is admitted: 32 bits wide, at a multiple of 4 (20_memory.md R72). -/
def Access.admitted (a : Access) : Bool :=
  a.size == 4 && a.off.extractLsb' 0 2 == 0#2

/-- What a host access is, total on every access (10_state.md R43, 20_memory.md R72). -/
def decode (a : Access) : Decoded :=
  if a.size ≠ 4 then .reject .width
  else if a.off.extractLsb' 0 2 ≠ 0#2 then .reject .misaligned
  else match a.kind with
    | .read => decodeRead a.off
    | .write => decodeWrite a.off a.data

/-- `MemRead(off, 4)` (20_memory.md R60). -/
def readAt (off : BitVec 12) : Access where
  kind := .read
  off := off
  size := 4
  data := 0#32

/-- `MemWrite(off, 4, v)` (20_memory.md R60). -/
def writeAt (off : BitVec 12) (v : Word) : Access where
  kind := .write
  off := off
  size := 4
  data := v

/-- The write that runs a command (40_commands.md R118). -/
def cmdAccess (c : Cmd) : Access := writeAt 0x010#12 (encodeCmd c)

/-- The access an instruction is, from the register map (10_state.md R43) and the opcode map (30_encoding.md R93). -/
def encode : Instr → Access
  | .nop => cmdAccess .nop
  | .setQuality imm => cmdAccess (.setQuality imm)
  | .start => cmdAccess .start
  | .block => cmdAccess .block
  | .tail => cmdAccess .tail
  | .stop => cmdAccess .stop
  | .dispose => cmdAccess .dispose
  | .rdId => readAt 0x000#12
  | .rdCapPix => readAt 0x004#12
  | .rdCapOut => readAt 0x008#12
  | .wrCmd w => writeAt 0x010#12 w
  | .rdCmd => readAt 0x010#12
  | .rdStatus => readAt 0x014#12
  | .wrStatus v => writeAt 0x014#12 v
  | .rdErrCode => readAt 0x018#12
  | .rdIrqEn => readAt 0x01C#12
  | .wrIrqEn v => writeAt 0x01C#12 v
  | .rdQuality => readAt 0x020#12
  | .rdWidth => readAt 0x024#12
  | .wrWidth v => writeAt 0x024#12 v
  | .rdHeight => readAt 0x028#12
  | .wrHeight v => writeAt 0x028#12 v
  | .rdPixAddr => readAt 0x02C#12
  | .wrPixAddr v => writeAt 0x02C#12 v
  | .wrPixData v => writeAt 0x030#12 v
  | .rdPixData => readAt 0x030#12
  | .rdCurX => readAt 0x034#12
  | .rdCurY => readAt 0x038#12
  | .rdPixDone => readAt 0x03C#12
  | .rdPixTotal => readAt 0x040#12
  | .rdOutLen => readAt 0x044#12
  | .rdOutAddr => readAt 0x048#12
  | .wrOutAddr v => writeAt 0x048#12 v
  | .rdOutData => readAt 0x04C#12
  | .rdPredY => readAt 0x050#12
  | .rdPredCb => readAt 0x054#12
  | .rdPredCr => readAt 0x058#12
  | .rdBitacc => readAt 0x05C#12
  | .rdQtY k => readAt (1#4 ++ k ++ 0#2)
  | .rdQtC k => readAt (2#4 ++ k ++ 0#2)

/-- The register offset an address of the host's map selects: the 4096 bytes from `UNIT_BASE` on are the unit's
(20_memory.md R60, 60_exceptions.md R324); another address does not select it. -/
def unitOffset (addr : Nat) : Option (BitVec 12) :=
  if Config.unitBase ≤ addr ∧ addr < Config.unitBase + 4096 then some (BitVec.ofNat 12 (addr - Config.unitBase)) else none

/-- The access that a row's bits describe, in the bit numbering of spec/opcode_table.json (log entry 11). A row of more
than 16 bits is a command word (formats C and CI). A row of at most 16 bits is a register offset (formats REG_RD and
REG_WR) in bits 11:0, with bit 12 set for a write and a write's value in the bits above 15; the one such word that is
no offset, 0x0001, is SET_QUALITY's, whose row gives 16 bits. -/
def tableAccess (nbits w : Nat) : Access :=
  if 16 < nbits then writeAt 0x010#12 (BitVec.ofNat 32 w)
  else if w % 2 ^ 16 = 1 then writeAt 0x010#12 (BitVec.ofNat 32 w)
  else if w / 2 ^ 12 % 2 = 1 then writeAt (BitVec.ofNat 12 w) (BitVec.ofNat 32 (w / 2 ^ 16))
  else readAt (BitVec.ofNat 12 w)

/-- The instruction the decoder reads from a table row's bits. -/
def decodeTableWord (nbits w : Nat) : Option Instr :=
  match decode (tableAccess nbits w) with
  | .instr i => some i
  | .reservedRead => none
  | .ignoredWrite => none
  | .reject _ => none

end Sys2Proof
end

