-- ==== Sys2Proof/Machine/Block.lean ====
section
/-! DEFINITION. Fixed-length buffers (00_scope.md R11). -/

namespace Sys2Proof.Machine

/-- The buffer of `n` entries whose entry `i` is `f i`. -/
def tabulate (n : Nat) {α : Type} (f : Nat → α) : Vector α n := ⟨⟨(List.range n).map f⟩, by simp⟩

/-- Entry `i` of a constant table that is written as a list. -/
def entry (table : List Nat) (i : Nat) : Nat := table.getD i 0

end Sys2Proof.Machine
end

