-- ==== Sys2Proof/Machine/Float.lean ====
section
/-! DEFINITION. IEEE 754 binary64 arithmetic, round to nearest, ties to even (00_scope.md R9). Every operation decodes
its operands to integers, computes exactly, and rounds once. A finite value is an integer number of units of
2^-1074, the least positive binary64 value. Infinities, NaN and signed zeros follow IEEE 754 (log entry 7). -/

namespace Sys2Proof.Machine

/-- The sign bit. -/
def f64Neg (x : F64) : Bool := x.msb

/-- The biased exponent, bits 62:52. -/
def f64Exp (x : F64) : Nat := (x.extractLsb' 52 11).toNat

/-- The fraction, bits 51:0. -/
def f64Frac (x : F64) : Nat := (x.extractLsb' 0 52).toNat

/-- Neither infinite nor a NaN. -/
def f64Finite (x : F64) : Bool := f64Exp x != 2047

/-- Not a number. -/
def f64IsNan (x : F64) : Bool := f64Exp x == 2047 && f64Frac x != 0

/-- The magnitude of a finite value, in units of 2^-1074. -/
def f64Mag (x : F64) : Nat :=
  if f64Exp x = 0 then f64Frac x else (2 ^ 52 + f64Frac x) * 2 ^ (f64Exp x - 1)

/-- A finite value, in units of 2^-1074. -/
def f64Units (x : F64) : Int := if f64Neg x then -(f64Mag x : Int) else f64Mag x

/-- The units in 1.0. -/
def f64One : Nat := 2 ^ 1074

/-- The quiet NaN the model gives where IEEE 754 gives a NaN. -/
def f64Nan : F64 := 0x7FF8000000000000#64

/-- The magnitude bits of infinity. -/
def f64InfBits : Nat := 2047 * 2 ^ 52

/-- The value with a sign and magnitude bits 62:0, infinite where the magnitude is out of range. -/
def f64Pack (neg : Bool) (bits : Nat) : F64 :=
  BitVec.ofBool neg ++ BitVec.ofNat 63 (min bits f64InfBits)

/-- `num / den` rounded to the nearest integer, ties to even, for `den > 0`. -/
def nearestEven (num den : Nat) : Nat :=
  let q := num / den
  let r := num % den
  if 2 * r < den then q else if den < 2 * r then q + 1 else if q % 2 = 0 then q else q + 1

/-- The place of the highest 1 bit of `n`, found by halving a range of `2 ^ w` places: the binary logarithm of
`n < 2 ^ (2 ^ w)`, and the highest place of the range for a greater `n`. -/
def topPlace : Nat → Nat → Nat
  | 0, _ => 0
  | w + 1, n => if 2 ^ 2 ^ w ≤ n then 2 ^ w + topPlace w (n / 2 ^ 2 ^ w) else topPlace w n

/-- The binary64 value nearest to `num / den` units, ties to even, for `den > 0`. The last place of a value of `L + 1`
bits of units is `L - 52` binary places up, and the least unit where `L <= 52`. From `L = 2098` on the value is infinite,
so a range of 4096 places will do. -/
def f64Round (neg : Bool) (num den : Nat) : F64 :=
  let k := topPlace 12 (num / den) - 52
  f64Pack neg (k * 2 ^ 52 + nearestEven num (den * 2 ^ k))

/-- `-x`, exact (41_color_fdct.md R163). -/
def fneg (x : F64) : F64 := x ^^^ (1#1 ++ 0#63)

/-- The exact sum of two finite values, rounded. A zero sum is +0 unless both are -0. -/
def faddFinite (x y : F64) : F64 :=
  let n := f64Units x + f64Units y
  if n = 0 then f64Pack (f64Neg x && f64Neg y) 0 else f64Round (decide (n < 0)) n.natAbs 1

/-- `x + y` (00_scope.md R9). -/
def fadd (x y : F64) : F64 :=
  if f64IsNan x || f64IsNan y then f64Nan
  else match f64Finite x, f64Finite y with
    | true, true => faddFinite x y
    | true, false => y
    | false, true => x
    | false, false => if f64Neg x = f64Neg y then x else f64Nan

/-- `x - y` (00_scope.md R9). -/
def fsub (x y : F64) : F64 := fadd x (fneg y)

/-- `x * y` (00_scope.md R9). -/
def fmul (x y : F64) : F64 :=
  let neg := f64Neg x ^^ f64Neg y
  if f64IsNan x || f64IsNan y then f64Nan
  else if f64Finite x && f64Finite y then f64Round neg (f64Mag x * f64Mag y) f64One
  else if (f64Finite x && f64Mag x == 0) || (f64Finite y && f64Mag y == 0) then f64Nan
  else f64Pack neg f64InfBits

/-- `x / y` (00_scope.md R9). -/
def fdiv (x y : F64) : F64 :=
  let neg := f64Neg x ^^ f64Neg y
  if f64IsNan x || f64IsNan y then f64Nan
  else match f64Finite x, f64Finite y with
    | true, true =>
      if f64Mag y = 0 then (if f64Mag x = 0 then f64Nan else f64Pack neg f64InfBits)
      else f64Round neg (f64Mag x * f64One) (f64Mag y)
    | true, false => f64Pack neg 0
    | false, true => f64Pack neg f64InfBits
    | false, false => f64Nan

/-- A decimal literal `num / den`: the binary64 value nearest to it (00_scope.md R9). -/
def f64Lit (num den : Nat) : F64 := f64Round false (num * f64One) den

/-- `f64(n)`, exact for n < 2^53 (00_scope.md R9). -/
def f64OfNat (n : Nat) : F64 := f64Lit n 1

/-- `sign(p) * floor(|p| + 1/2)`, exact on the value p (42_quant_zigzag.md R197). -/
def roundHalfAway (p : F64) : Int :=
  let m := (2 * f64Mag p + f64One) / (2 * f64One)
  if f64Neg p then -(m : Int) else m

end Sys2Proof.Machine
end

