-- ==== Sys2Proof/Machine/Quant.lean ====
section
/-! DEFINITION. The quantization and scaling tables as functions of the quality (42_quant_zigzag.md §1 to §3). -/

namespace Sys2Proof.Machine

/-- `YQT`, natural order (42_quant_zigzag.md R191). -/
def yqt : List Nat :=
  [16, 11, 10, 16, 24, 40, 51, 61, 12, 12, 14, 19, 26, 58, 60, 55] ++
  [14, 13, 16, 24, 40, 57, 69, 56, 14, 17, 22, 29, 51, 87, 80, 62] ++
  [18, 22, 37, 56, 68, 109, 103, 77, 24, 35, 55, 64, 81, 104, 113, 92] ++
  [49, 64, 78, 87, 103, 121, 120, 101, 72, 92, 95, 98, 112, 100, 103, 99]

/-- `CQT`, natural order (42_quant_zigzag.md R191). -/
def cqt : List Nat :=
  [17, 18, 24, 47, 99, 99, 99, 99, 18, 21, 26, 66, 99, 99, 99, 99] ++
  [24, 26, 56, 99, 99, 99, 99, 99, 47, 66, 99, 99, 99, 99, 99, 99] ++
  List.replicate 32 99

/-- `ZZ`: the zigzag position of a natural index (42_quant_zigzag.md R193). -/
def zz : List Nat :=
  [0, 1, 5, 6, 14, 15, 27, 28, 2, 4, 7, 13, 16, 26, 29, 42] ++
  [3, 8, 12, 17, 25, 30, 41, 43, 9, 11, 18, 24, 31, 40, 44, 53] ++
  [10, 19, 23, 32, 39, 45, 52, 54, 20, 22, 33, 38, 46, 51, 55, 60] ++
  [21, 34, 37, 47, 50, 56, 59, 61, 35, 36, 48, 49, 57, 58, 62, 63]

/-- `UNZZ`: the natural index of a zigzag position (42_quant_zigzag.md R193). -/
def unzz : List Nat :=
  [0, 1, 8, 16, 9, 2, 3, 10, 17, 24, 32, 25, 18, 11, 4, 5] ++
  [12, 19, 26, 33, 40, 48, 41, 34, 27, 20, 13, 6, 7, 14, 21, 28] ++
  [35, 42, 49, 56, 57, 50, 43, 36, 29, 22, 15, 23, 30, 37, 44, 51] ++
  [58, 59, 52, 45, 38, 31, 39, 46, 53, 60, 61, 54, 47, 55, 62, 63]

/-- `clamp(v, lo, hi)` (00_scope.md R8). -/
def clamp (v lo hi : Int) : Int := min (max v lo) hi

/-- `ClampQuality` (42_quant_zigzag.md R190). -/
def clampQuality (qRaw : Int) : Nat := (clamp qRaw 1 100).toNat

/-- `ScaleFactor(q)`, for q in 1..100 (42_quant_zigzag.md R190; log entry 14 on other q). -/
def scaleFactor (q : Nat) : Nat := if q < 50 then 5000 / q else 200 - 2 * q

/-- `QEntry(base, sf)` (42_quant_zigzag.md R192). -/
def quantEntry (base sf : Nat) : Nat := min (max ((base * sf + 50) / 100) 1) 255

/-- The quantization table of a base table and a quality, in zigzag order: `QT[ZZ[i]] = QEntry(base[i], sf)`
(42_quant_zigzag.md R194). -/
def quantTable (base : List Nat) (q : Nat) : Vector Byte 64 :=
  tabulate 64 fun k => BitVec.ofNat 8 (quantEntry (entry base (entry unzz k)) (scaleFactor q))

/-- `AASF[0..7]` (42_quant_zigzag.md R195). -/
def aasf (i : Nat) : F64 :=
  f64Lit (entry [1000000000, 1387039845, 1306562965, 1175875602, 1000000000, 785694958, 541196100, 275899379] i)
    1000000000

/-- `ScaleTable(QT)`, natural order (42_quant_zigzag.md R196). -/
def scaleTable (qt : Vector Byte 64) : Vector F64 64 :=
  tabulate 64 fun i =>
    fdiv (f64OfNat 1)
      (fmul (fmul (fmul (f64OfNat (qt.toList.getD (entry zz i) 0#8).toNat) (aasf (i / 8))) (aasf (i % 8))) (f64OfNat 8))

end Sys2Proof.Machine
end

