-- ==== Sys2Proof/Machine/State.lean ====
section
/-! DEFINITION. The state of the unit (10_state.md), why a run can stop, and the state after reset
(70_reset_and_hazards.md R340). -/

namespace Sys2Proof.Machine

/-- The pixel RAM: the words the host has written since reset, by word index (20_memory.md R61). An index that is not
listed has not been written (93_implementation_defined.md U1). -/
abbrev Memory := List (Nat × Word)

/-- What the platform does to the unit: a register access by the host (20_memory.md R71) or a reset
(70_reset_and_hazards.md R341). -/
inductive Event where
  | access (a : Access)
  | reset
deriving DecidableEq, Repr

/-- The part of the state that the shared output operations write: the output RAM and its overflow bit, the bit
accumulator, and the error record. -/
structure Writer where
  /-- `BYTE_NEW` (R40) -/
  byteNew : Byte
  /-- `BYTE_POS`, 7 down to 0 (R40) -/
  bytePos : BitVec 3
  /-- `OUT` (R38) -/
  out : List Byte
  /-- `OVF` (R28) -/
  ovf : Bool
  /-- `ERR` (R41) -/
  err : Bool
  /-- `ERR_CODE` (R41) -/
  errCode : Byte
  /-- `ERR_MULTI` (R41) -/
  errMulti : Bool
deriving DecidableEq, Repr

/-- The whole state. Every field cites the rule of 10_state.md that names it; `host`, `rdata` and `epoch` are the
model's own (log entries 1, 2 and 4), and `par` holds the parameters of 00_scope.md R6 (log entry 3). -/
structure State where
  /-- the parameters of the realisation; no step changes them -/
  par : Params
  /-- the accesses and resets still to come, oldest first -/
  host : List Event
  /-- the value the last register read returned -/
  rdata : Word
  /-- how many resets there have been -/
  epoch : Nat
  /-- `RUNNING` (R24) -/
  running : Bool
  /-- `CONSUMED` (R25) -/
  consumed : Bool
  /-- `COMPLETE` (R26) -/
  complete : Bool
  /-- `TRUNCATED` (R27) -/
  truncated : Bool
  /-- `CUR_X` (R22) -/
  curX : Word
  /-- `CUR_Y` (R22) -/
  curY : Word
  /-- `Q_ACT` (R29) -/
  qAct : Byte
  /-- `Q_PEND` (R29) -/
  qPend : Byte
  /-- `QPEND` (R29) -/
  qPending : Bool
  /-- `QT_Y`, zigzag order (R30) -/
  qtY : Vector Byte 64
  /-- `QT_C`, zigzag order (R30) -/
  qtC : Vector Byte 64
  /-- `FD_Y`, natural order (R31) -/
  fdY : Vector F64 64
  /-- `FD_C`, natural order (R31) -/
  fdC : Vector F64 64
  /-- `WIDTH` (R33) -/
  width : BitVec 16
  /-- `HEIGHT` (R33) -/
  height : BitVec 16
  /-- `PIX` (R34) -/
  pix : Memory
  /-- `PIX_ADDR` (R35) -/
  pixAddr : Word
  /-- `PIX_DONE` (R36) -/
  pixDone : Word
  /-- `PIX_TOTAL` (R36) -/
  pixTotal : Word
  /-- `PRED[0]` (R37) -/
  predY : Int
  /-- `PRED[1]` (R37) -/
  predCb : Int
  /-- `PRED[2]` (R37) -/
  predCr : Int
  /-- `OUT`, `OVF`, `BYTE_NEW`, `BYTE_POS`, `ERR`, `ERR_CODE`, `ERR_MULTI` -/
  wr : Writer
  /-- `OUT_ADDR` (R39) -/
  outAddr : Word
  /-- `DONE_IP` (R42) -/
  doneIp : Bool
  /-- `IRQ_EN`: bit 0 DONE_IE, bit 1 ERR_IE (R42) -/
  irqEn : BitVec 2
deriving DecidableEq, Repr

/-- States the rules never reach (60_exceptions.md R316). All are raised by BLOCK alone, and all are safe: the model
stops where the spec gives no value. -/
inductive Fault where
  /-- PutCode with a symbol that the Huffman table does not hold (43_entropy.md R231); safe -/
  | symbolOutsideTable
  /-- a quantizer product that is infinite or not a number (42_quant_zigzag.md R197); safe -/
  | nonFiniteProduct
  /-- PutBits with n > 16 or v >= 2^n (44_bitwriter.md R261); safe -/
  | putBitsArguments
  /-- BLOCK with the cursor outside the image, which R160 of 41_color_fdct.md excludes (log entry 8); safe -/
  | cursorOutsideImage
  /-- a pixel index at or above MAX_PIXELS, which R62 of 20_memory.md excludes (log entry 8); safe -/
  | pixelOutsideRam
deriving DecidableEq, Repr

/-- Why an access is rejected with no effect. -/
inductive Refusal where
  /-- an instruction that has no meaning in the model; no arm of `exec` answers it; safe -/
  | notModelled (mnemonic : String)
  /-- a register access that is not 32 bits wide, by `serve` (20_memory.md R72); safe -/
  | accessWidth
  /-- a register access at an offset that is no multiple of 4, by `serve` (20_memory.md R72); safe -/
  | accessMisaligned
deriving DecidableEq, Repr

/-- The output side after reset (10_state.md R28, R38, R40, R41). -/
def Writer.reset : Writer where
  byteNew := 0#8
  bytePos := 7#3
  out := []
  ovf := false
  err := false
  errCode := 0#8
  errMulti := false

/-- The reset state of a realisation with parameters `p` (70_reset_and_hazards.md R340). -/
def State.resetWith (p : Params) : State where
  par := p
  host := []
  rdata := 0#32
  epoch := 0
  running := false
  consumed := false
  complete := false
  truncated := false
  curX := 0#32
  curY := 0#32
  qAct := p.resetQuality
  qPend := p.resetQuality
  qPending := false
  qtY := quantTable yqt p.resetQuality.toNat
  qtC := quantTable cqt p.resetQuality.toNat
  fdY := scaleTable (quantTable yqt p.resetQuality.toNat)
  fdC := scaleTable (quantTable cqt p.resetQuality.toNat)
  width := 0#16
  height := 0#16
  pix := []
  pixAddr := 0#32
  pixDone := 0#32
  pixTotal := 0#32
  predY := 0
  predCb := 0
  predCr := 0
  wr := Writer.reset
  outAddr := 0#32
  doneIp := false
  irqEn := 0#2

/-- The machine right after reset (70_reset_and_hazards.md R340), with the parameters of `Config.params`. -/
def State.reset : State := State.resetWith Config.params

end Sys2Proof.Machine
end

