-- ==== Sys2Proof/Machine/Ops.lean ====
section
/-! DEFINITION. The named operations on the state: the pixel RAM, the output RAM, the error record, reset, the quality
tables, the answer of a read. -/

namespace Sys2Proof.Machine

/-- What an access does: the next state, a fault or a refusal. -/
abbrev Result := Host.Outcome State Fault Refusal

/-- The next part of a command, after one that meets no fault point. -/
def andThen {α β : Type} (x : Except Fault α) (f : α → Except Fault β) : Except Fault β :=
  match x with
  | .ok a => f a
  | .error e => .error e

/-- The end of a command whose last part may meet a fault point (60_exceptions.md R316). -/
def orFault {α : Type} (x : Except Fault α) (f : α → Result) : Result :=
  match x with
  | .ok a => f a
  | .error e => .fault e

/-! ## Pixel RAM (20_memory.md R61, R62) -/

/-- The word written at an index since reset, if any. -/
def Memory.read : Memory → Nat → Option Word
  | [], _ => none
  | (j, u) :: m, i => if i = j then some u else Memory.read m i

/-- Store a word at an index. -/
def Memory.write : Memory → Nat → Word → Memory
  | [], i, v => [(i, v)]
  | (j, u) :: m, i, v =>
    if i < j then (i, v) :: (j, u) :: m
    else if i = j then (i, v) :: m
    else (j, u) :: Memory.write m i v

/-- Whether every index listed is above `lo` and the indices rise. -/
def Memory.risesFrom : Nat → Memory → Bool
  | _, [] => true
  | lo, (i, _) :: m => decide (lo ≤ i) && Memory.risesFrom (i + 1) m

/-- The canonical form: one entry for each written word, indices strictly rising (log entry 5). -/
def Memory.wf (m : Memory) : Bool := Memory.risesFrom 0 m

/-- `PIX[i]`: the word last written, and a free value where none was written since reset (20_memory.md R62, U1). -/
def pixWord (s : State) (i : Nat) : Word := (s.pix.read i).getD (Config.pixFree s.epoch i)

/-- `PIX[i] <- v` (40_commands.md R139). -/
def pixStore (i : Nat) (v : Word) (s : State) : State := { s with pix := s.pix.write i v }

/-! ## Errors: recording one, ending an access with one, and clearing them (60_exceptions.md R311 to R313, R320) -/

/-- The errors of 60_exceptions.md R311. -/
inductive ErrCode where
  | startRunning
  | startNoSource
  | startTooLarge
  | notRunning
  | blockConsumed
  | tailEarly
  | illegalCmd
  | cfgRunning
  | pixRange
  | outOverflow
deriving DecidableEq, Repr

/-- The code an error leaves in ERR_CODE (60_exceptions.md R311). -/
def errValue : ErrCode → Byte
  | .startRunning => 1#8
  | .startNoSource => 2#8
  | .startTooLarge => 3#8
  | .notRunning => 4#8
  | .blockConsumed => 5#8
  | .tailEarly => 6#8
  | .illegalCmd => 7#8
  | .cfgRunning => 8#8
  | .pixRange => 9#8
  | .outOverflow => 10#8

/-- `RecordError(c)`: the first error stays until it is cleared (60_exceptions.md R312). -/
def recordError (c : ErrCode) (w : Writer) : Writer :=
  if w.err = false then { w with err := true, errCode := errValue c } else { w with errMulti := true }

/-- The state after `raise UsageError(c)`: the error record alone has changed (60_exceptions.md R313). -/
def refuseWith (c : ErrCode) (s : State) : State := { s with wr := recordError c s.wr }

/-- `raise UsageError(c)` ends the access (60_exceptions.md R313). -/
def raiseUsageError (c : ErrCode) (s : State) : Result := .next (refuseWith c s)

/-- The end of error handling: `ERR`, `ERR_MULTI` and `ERR_CODE` are cleared together (60_exceptions.md R320). -/
def clearErrors (s : State) : State := { s with wr := { s.wr with err := false, errMulti := false, errCode := 0#8 } }

/-! ## Output RAM (20_memory.md R63, R64) -/

/-- `OutAppend(b)` into an output RAM of `cap` bytes (20_memory.md R64). -/
def outAppend (cap : Nat) (b : Byte) (w : Writer) : Writer :=
  if w.out.length < cap then { w with out := w.out ++ [b] }
  else if w.ovf = false then recordError .outOverflow { w with ovf := true }
  else w

/-! ## Quality tables (42_quant_zigzag.md R199, 40_commands.md R117) -/

/-- `ApplyQuality(q)` (42_quant_zigzag.md R199). -/
def applyQuality (q : Nat) (s : State) : State :=
  { s with
    qtY := quantTable yqt q
    qtC := quantTable cqt q
    fdY := scaleTable (quantTable yqt q)
    fdC := scaleTable (quantTable cqt q) }

/-- `ApplyPending()` (40_commands.md R117). -/
def applyPending (s : State) : State :=
  if s.qPending then applyQuality s.qPend.toNat { s with qAct := s.qPend, qPending := false } else s

/-! ## Reads and reset -/

/-- A register read returns `v` and has no other effect (40_commands.md R130). -/
def answer (v : Word) (s : State) : State := { s with rdata := v }

/-- The platform's reset (70_reset_and_hazards.md R341): every element takes its reset value and the pixel RAM becomes
unspecified anew; the parameters and the accesses still to come are not the unit's state. -/
def resetUnit (s : State) : State := { State.resetWith s.par with epoch := s.epoch + 1, host := s.host }

end Sys2Proof.Machine
end

