-- ==== Sys2Proof/Machine/BitWriter.lean ====
section
/-! DEFINITION. The bit writer (44_bitwriter.md). `cap` is MAX_OUT, the capacity of the output RAM. -/

namespace Sys2Proof.Machine

/-- `EmitStuffed(b)` (44_bitwriter.md R262). -/
def emitStuffed (cap : Nat) (b : Byte) (w : Writer) : Writer :=
  if b = 0xFF#8 then outAppend cap 0x00#8 (outAppend cap b w) else outAppend cap b w

/-- BYTE_NEW with the bit at BYTE_POS set where `b` holds (44_bitwriter.md R261). -/
def landBit (b : Bool) (w : Writer) : Byte := if b then w.byteNew ||| 1#8 <<< w.bytePos.toNat else w.byteNew

/-- One bit of PutBits: the body of its loop (44_bitwriter.md R261). -/
def sendBit (cap : Nat) (b : Bool) (w : Writer) : Writer :=
  if w.bytePos = 0#3 then { emitStuffed cap (landBit b w) w with byteNew := 0#8, bytePos := 7#3 }
  else { w with byteNew := landBit b w, bytePos := w.bytePos - 1#3 }

/-- PutBits' loop: the n low bits of v, most significant first (44_bitwriter.md R261). -/
def sendBits (cap : Nat) : (n v : Nat) → Writer → Writer
  | 0, _, w => w
  | n + 1, v, w => sendBits cap n v (sendBit cap (v.testBit n) w)

/-- `PutBits(v, n)`, with its guard (44_bitwriter.md R261, 60_exceptions.md R316). -/
def putBits (cap n v : Nat) (w : Writer) : Except Fault Writer :=
  if n ≤ 16 ∧ v < 2 ^ n then .ok (sendBits cap n v w) else .error .putBitsArguments

/-- `EmitRaw(b)` (44_bitwriter.md R263). -/
def emitRaw (cap : Nat) (b : Byte) (w : Writer) : Writer := outAppend cap b w

/-- EmitRaw on each byte of a list, first byte first. -/
def emitRaws (cap : Nat) (bs : List Byte) (w : Writer) : Writer := bs.foldl (fun w b => emitRaw cap b w) w

/-- The two bytes of `EmitWord(v)`, big-endian (44_bitwriter.md R264). -/
def wordBytes (v : BitVec 16) : List Byte := [v.extractLsb' 8 8, v.extractLsb' 0 8]

/-- `EmitWord(v)` (44_bitwriter.md R264). -/
def emitWord (cap : Nat) (v : BitVec 16) (w : Writer) : Writer := emitRaws cap (wordBytes v) w

/-- The accumulator reset of the head phase (44_bitwriter.md R265). -/
def resetAccumulator (w : Writer) : Writer := { w with byteNew := 0#8, bytePos := 7#3 }

/-- `PadToByte()` (44_bitwriter.md R266). -/
def padToByte (cap : Nat) (pad : TailPad) (w : Writer) : Except Fault Writer :=
  if w.bytePos.toNat < 7 then putBits cap (w.bytePos.toNat + 1) (2 ^ (w.bytePos.toNat + 1) - 1) w
  else match pad with
    | .none => .ok w
    | .fullByte => putBits cap 8 0xFF w

end Sys2Proof.Machine
end

