-- ==== Sys2Proof/Machine/Operands.lean ====
section
/-! DEFINITION. The operands of the commands: SET_QUALITY's immediate, the pixel word's fields, and the pixels of the
block at the cursor. -/

namespace Sys2Proof.Machine

/-- SET_QUALITY's quality: `clamp(sext_16(IMM16), 1, 100)` (30_encoding.md R94, 42_quant_zigzag.md R190). -/
def qualityOperand (imm : BitVec 16) : Byte := BitVec.ofNat 8 (clampQuality imm.toInt)

/-- `R = P[23:16]` (20_memory.md R69). -/
def redOf (p : Word) : Byte := p.extractLsb' 16 8

/-- `G = P[15:8]` (20_memory.md R69). -/
def greenOf (p : Word) : Byte := p.extractLsb' 8 8

/-- `B = P[7:0]` (20_memory.md R69). -/
def blueOf (p : Word) : Byte := p.extractLsb' 0 8

/-- The image holds the cursor: `CUR_X < WIDTH` and `CUR_Y < HEIGHT` (41_color_fdct.md R160). -/
def cursorInImage (s : State) : Bool := decide (s.curX.toNat < s.width.toNat) && decide (s.curY.toNat < s.height.toNat)

/-- The edge clamp of one coordinate: `min(cur + k, size - 1)` (41_color_fdct.md R161). -/
def edgeClamp (cur size k : Nat) : Nat := min (cur + k) (size - 1)

/-- The index in the pixel RAM of the block's sample `i = 8r + c`: `py(r)*WIDTH + px(c)` (41_color_fdct.md R162). -/
def sampleIndex (s : State) (i : Nat) : Nat :=
  edgeClamp s.curY.toNat s.height.toNat (i / 8) * s.width.toNat + edgeClamp s.curX.toNat s.width.toNat (i % 8)

/-- `BlockPixels(CUR_X, CUR_Y)`, with the cursor in the image (40_commands.md R119). -/
def blockPixels (s : State) : Nat := min 8 (s.width.toNat - s.curX.toNat) * min 8 (s.height.toNat - s.curY.toNat)

end Sys2Proof.Machine
end

