-- ==== Sys2Proof/Machine/Transform.lean ====
section
/-! DEFINITION. The first half of BLOCK: fetch, colour conversion, forward DCT, quantizer and zigzag reorderer
(41_color_fdct.md, 42_quant_zigzag.md §4). -/

namespace Sys2Proof.Machine

/-- Entry `i` of a buffer, `d` where there is none. -/
def pick {α : Type} {n : Nat} (v : Vector α n) (i : Nat) (d : α) : α := v.toList.getD i d

/-! ## Fetch (41_color_fdct.md R160 to R162, R164) -/

/-- The 64 pixel words of the block at the cursor, in natural order. START has checked that the image fits the pixel
RAM (20_memory.md R62); an index outside it is a fault. -/
def fetchWords (s : State) : Except Fault (Vector Word 64) :=
  if (List.range 64).all fun i => decide (sampleIndex s i < s.par.maxPixels) then
    .ok (tabulate 64 fun i => pixWord s (sampleIndex s i))
  else .error .pixelOutsideRam

/-! ## Colour conversion (41_color_fdct.md R163) -/

/-- The literal `num * 10^-6`. -/
def micro (num : Nat) : F64 := f64Lit num 1000000

/-- `f64` of an 8-bit field. -/
def f64OfByte (b : Byte) : F64 := f64OfNat b.toNat

/-- `Y <- ((0.299*R + 0.587*G) + 0.114*B) - 128.0` (41_color_fdct.md R163). -/
def lumaOf (p : Word) : F64 :=
  fsub (fadd (fadd (fmul (micro 299000) (f64OfByte (redOf p))) (fmul (micro 587000) (f64OfByte (greenOf p))))
    (fmul (micro 114000) (f64OfByte (blueOf p)))) (f64OfNat 128)

/-- `Cb <- ((-0.168736)*R + (-0.331264)*G) + 0.5*B` (41_color_fdct.md R163). -/
def cbOf (p : Word) : F64 :=
  fadd (fadd (fmul (fneg (micro 168736)) (f64OfByte (redOf p))) (fmul (fneg (micro 331264)) (f64OfByte (greenOf p))))
    (fmul (micro 500000) (f64OfByte (blueOf p)))

/-- `Cr <- (0.5*R + (-0.418688)*G) + (-0.081312)*B` (41_color_fdct.md R163). -/
def crOf (p : Word) : F64 :=
  fadd (fadd (fmul (micro 500000) (f64OfByte (redOf p))) (fmul (fneg (micro 418688)) (f64OfByte (greenOf p))))
    (fmul (fneg (micro 81312)) (f64OfByte (blueOf p)))

/-- One sample buffer of FetchBlock: YDU, CBDU or CRDU (41_color_fdct.md R164). -/
def sampleBuffer (conv : Word → F64) (words : Vector Word 64) : Vector F64 64 :=
  tabulate 64 fun i => conv (pick words i 0#32)

/-! ## Forward DCT (41_color_fdct.md R166, R167) -/

/-- A rotation constant of the butterfly, `num * 10^-9` (41_color_fdct.md R166). -/
def nano (num : Nat) : F64 := f64Lit num 1000000000

/-- The outputs y[0..7] of one AAN pass over its eight inputs, in binary64 in the order written (41_color_fdct.md R167). -/
def aanOutputs (x0 x1 x2 x3 x4 x5 x6 x7 : F64) : Vector F64 8 :=
  let tmp0 := fadd x0 x7
  let tmp7 := fsub x0 x7
  let tmp1 := fadd x1 x6
  let tmp6 := fsub x1 x6
  let tmp2 := fadd x2 x5
  let tmp5 := fsub x2 x5
  let tmp3 := fadd x3 x4
  let tmp4 := fsub x3 x4
  let even10 := fadd tmp0 tmp3
  let even13 := fsub tmp0 tmp3
  let even11 := fadd tmp1 tmp2
  let even12 := fsub tmp1 tmp2
  let z1 := fmul (fadd even12 even13) (nano 707106781)
  let odd10 := fadd tmp4 tmp5
  let odd11 := fadd tmp5 tmp6
  let odd12 := fadd tmp6 tmp7
  let z5 := fmul (fsub odd10 odd12) (nano 382683433)
  let z2 := fadd (fmul (nano 541196100) odd10) z5
  let z4 := fadd (fmul (nano 1306562965) odd12) z5
  let z3 := fmul odd11 (nano 707106781)
  let z11 := fadd tmp7 z3
  let z13 := fsub tmp7 z3
  #v[fadd even10 even11, fadd z11 z4, fadd even13 z1, fsub z13 z2, fsub even10 even11, fadd z13 z2, fsub even13 z1,
    fsub z11 z4]

/-- One AAN pass over x[0..7] (41_color_fdct.md R167). -/
def aanPass (x : Nat → F64) : Vector F64 8 := aanOutputs (x 0) (x 1) (x 2) (x 3) (x 4) (x 5) (x 6) (x 7)

/-- The row passes: row r of the result is the pass over row r (41_color_fdct.md R166). -/
def rowPasses (d : Vector F64 64) : Vector (Vector F64 8) 8 :=
  tabulate 8 fun r => aanPass fun k => pick d (8 * r + k) 0#64

/-- The column passes: entry c of the result is the pass over column c of the rows (41_color_fdct.md R166). -/
def columnPasses (rows : Vector (Vector F64 8) 8) : Vector (Vector F64 8) 8 :=
  tabulate 8 fun c => aanPass fun k => pick (pick rows k (Vector.replicate 8 0#64)) c 0#64

/-- `ForwardDCT(S)`: DATA in natural order. Every row pass comes before the first column pass (41_color_fdct.md
R166). -/
def forwardDct (samples : Vector F64 64) : Vector F64 64 :=
  let columns := columnPasses (rowPasses samples)
  tabulate 64 fun i => pick (pick columns (i % 8) (Vector.replicate 8 0#64)) (i / 8) 0#64

/-! ## Quantizer and zigzag (42_quant_zigzag.md R197, R198) -/

/-- The products `DATA[i] * FD[i]` (42_quant_zigzag.md R197). -/
def products (fd data : Vector F64 64) : Vector F64 64 := tabulate 64 fun i => fmul (pick data i 0#64) (pick fd i 0#64)

/-- `Quantize(FD)`: COEF in natural order. A product that is not finite is a fault (42_quant_zigzag.md R197,
60_exceptions.md R316). -/
def quantize (fd data : Vector F64 64) : Except Fault (Vector Int 64) :=
  let p := products fd data
  if p.toList.all f64Finite then .ok (tabulate 64 fun i => roundHalfAway (pick p i 0#64)) else .error .nonFiniteProduct

/-- `Reorder()`: `DU[ZZ[i]] = COEF[i]`, so `DU[k] = COEF[UNZZ[k]]` (42_quant_zigzag.md R198). -/
def reorder (coef : Vector Int 64) : Vector Int 64 := tabulate 64 fun k => pick coef (entry unzz k) 0

/-- The first three steps of EncodeDU (43_entropy.md R232): DU, in zigzag order, of a sample buffer. -/
def transform (fd samples : Vector F64 64) : Except Fault (Vector Int 64) :=
  andThen (quantize fd (forwardDct samples)) fun coef => .ok (reorder coef)

end Sys2Proof.Machine
end

