-- ==== Sys2Proof/Machine/Entropy.lean ====
section
/-! DEFINITION. DC and AC coding of one data unit, and BLOCK's whole coding (43_entropy.md). Every bit goes to PutBits
at once. -/

namespace Sys2Proof.Machine

/-- `bitlen(n)` (00_scope.md R8). -/
def bitlen (n : Nat) : Nat := if n = 0 then 0 else n.log2 + 1

/-- `Category(v)` (43_entropy.md R220). -/
def category (v : Int) : Nat := bitlen v.natAbs

/-- `Magnitude(v)` (43_entropy.md R221). -/
def magnitude (v : Int) : Nat := if 0 < v then v.toNat else (v + 2 ^ category v - 1).toNat

/-- `PutCode(HT, sym)` (43_entropy.md R231). -/
def putCode (cap : Nat) (ht : List HuffCode) (sym : Nat) (w : Writer) : Except Fault Writer :=
  match lookupCode ht sym with
  | some c => putBits cap c.len c.code w
  | none => .error .symbolOutsideTable

/-- A category symbol and then the magnitude bits of its value (43_entropy.md R229, R230). -/
def putValue (cap : Nat) (ht : List HuffCode) (sym : Nat) (v : Int) (w : Writer) : Except Fault Writer :=
  andThen (putCode cap ht sym w) fun w => if category v = 0 then .ok w else putBits cap (category v) (magnitude v) w

/-- The DC code and bits of a difference (43_entropy.md R229). -/
def encodeDc (cap : Nat) (ht : List HuffCode) (diff : Int) (w : Writer) : Except Fault Writer :=
  putValue cap ht (category diff) diff w

/-- The ZRL codes of a run: `n` times symbol 0xF0 (43_entropy.md R230). -/
def putZrls (cap : Nat) (ht : List HuffCode) : Nat → Writer → Except Fault Writer
  | 0, w => .ok w
  | n + 1, w => andThen (putCode cap ht 0xF0 w) fun w => putZrls cap ht n w

/-- The scan of EncodeAC over positions 1..last, with the run of zeros so far: `floor(run/16)` ZRLs, then the symbol of
`run mod 16` and the category, then the magnitude bits (43_entropy.md R230, 90_conflicts.md C1). -/
def scanAc (cap : Nat) (ht : List HuffCode) : List Int → (run : Nat) → Writer → Except Fault Writer
  | [], _, w => .ok w
  | v :: vs, run, w =>
    if v = 0 then scanAc cap ht vs (run + 1) w
    else
      andThen (putZrls cap ht (run / 16) w) fun w =>
        andThen (putValue cap ht (run % 16 * 16 + category v) v w) fun w => scanAc cap ht vs 0 w

/-- The largest k in 1..63 with DU[k] nonzero, 0 if there is none (43_entropy.md R230). -/
def lastNonzero (du : Vector Int 64) : Nat :=
  (List.range 64).foldl (fun last k => if 0 < k ∧ pick du k 0 ≠ 0 then k else last) 0

/-- `EncodeAC` (43_entropy.md R230). -/
def encodeAc (cap : Nat) (ht : List HuffCode) (du : Vector Int 64) (w : Writer) : Except Fault Writer :=
  let last := lastNonzero du
  andThen (scanAc cap ht ((du.toList.take (last + 1)).drop 1) 0 w) fun w =>
    if last = 63 then .ok w else putCode cap ht 0x00 w

/-- The steps of EncodeDU that code (43_entropy.md R232): DU[0] as a difference from the predictor, then AC. -/
def codeUnit (cap : Nat) (dc ac : HuffSpec) (pred : Int) (du : Vector Int 64) (w : Writer) : Except Fault Writer :=
  andThen (encodeDc cap (buildTable dc) (pick du 0 0 - pred) w) fun w => encodeAc cap (buildTable ac) du w

/-- The three data units of the block at the cursor, Y, Cb, Cr: fetch, colour conversion, DCT, quantizer, zigzag
(40_commands.md R113, 42_quant_zigzag.md R202). -/
def blockUnits (s : State) : Except Fault (Vector Int 64 × Vector Int 64 × Vector Int 64) :=
  andThen (fetchWords s) fun words =>
    andThen (transform s.fdY (sampleBuffer lumaOf words)) fun y =>
      andThen (transform s.fdC (sampleBuffer cbOf words)) fun cb =>
        andThen (transform s.fdC (sampleBuffer crOf words)) fun cr => .ok (y, cb, cr)

/-- One MCU: Y with the luma tables, then Cb and Cr with the chroma tables, each DC first (43_entropy.md R223, R228). -/
def codeUnits (s : State) (y cb cr : Vector Int 64) : Except Fault Writer :=
  andThen (codeUnit s.par.maxOut dcLuma acLuma s.predY y s.wr) fun w =>
    andThen (codeUnit s.par.maxOut dcChroma acChroma s.predCb cb w) fun w =>
      codeUnit s.par.maxOut dcChroma acChroma s.predCr cr w

end Sys2Proof.Machine
end

