-- ==== Sys2Proof/Machine/Flags.lean ====
section
/-! DEFINITION. The STATUS bits: what a read of STATUS gives, what a write clears, and the interrupt output; and the one
flag BLOCK computes, CONSUMED. -/

namespace Sys2Proof.Machine

/-- A bit at place `i` of a register value. -/
def bitAt (i : Nat) (b : Bool) : Word := (BitVec.ofBool b).setWidth 32 <<< i

/-- The value a read of STATUS returns (40_commands.md R134, 10_state.md R46). -/
def statusWord (s : State) : Word :=
  bitAt 0 s.running ||| bitAt 1 s.consumed ||| bitAt 2 s.complete ||| bitAt 3 s.truncated ||| bitAt 4 s.wr.ovf |||
    bitAt 5 (!s.running) ||| bitAt 8 s.wr.err ||| bitAt 9 s.wr.errMulti ||| bitAt 16 s.doneIp

/-- A write of `v` to STATUS: writing 1 to bit 8 or bit 16 clears (40_commands.md R135). -/
def clearStatus (v : Word) (s : State) : State :=
  let s := if v.getLsbD 8 then clearErrors s else s
  if v.getLsbD 16 then { s with doneIp := false } else s

/-- `IRQ`, the level interrupt output (60_exceptions.md R318). -/
def irqOut (s : State) : Bool := (s.doneIp && s.irqEn.getLsbD 0) || (s.wr.err && s.irqEn.getLsbD 1)

/-- The x step of `AdvanceCursor()` (40_commands.md R120). -/
def nextCurX (s : State) : Word := if s.width.toNat ≤ (s.curX + 8#32).toNat then 0#32 else s.curX + 8#32

/-- The y step of `AdvanceCursor()` (40_commands.md R120). -/
def nextCurY (s : State) : Word := if s.width.toNat ≤ (s.curX + 8#32).toNat then s.curY + 8#32 else s.curY

/-- `AdvanceCursor()`: CONSUMED is set when the cursor leaves the image (40_commands.md R120, 10_state.md R25). -/
def advanceCursor (s : State) : State :=
  { s with
    curX := nextCurX s
    curY := nextCurY s
    consumed := s.consumed || decide (s.height.toNat ≤ (nextCurY s).toNat) }

end Sys2Proof.Machine
end

