-- ==== Sys2Proof/Machine/Framer.lean ====
section
/-! DEFINITION. The JPEG frame and marker emitter (45_framer.md): each segment as its bytes, in order. -/

namespace Sys2Proof.Machine

/-- `EmitSOI` (45_framer.md R281). -/
def soiBytes : List Byte := wordBytes 0xFFD8#16

/-- `EmitAPP0` (45_framer.md R282). -/
def app0Bytes : List Byte :=
  wordBytes 0xFFE0#16 ++ wordBytes 16#16 ++ [0x4A#8, 0x46#8, 0x49#8, 0x46#8, 0x00#8] ++ [0x01#8, 0x01#8] ++ [0x00#8] ++
    wordBytes 1#16 ++ wordBytes 1#16 ++ [0x00#8, 0x00#8]

/-- `EmitDQT`: one segment with both tables, in zigzag order (45_framer.md R283). -/
def dqtBytes (qtY qtC : Vector Byte 64) : List Byte :=
  wordBytes 0xFFDB#16 ++ wordBytes 132#16 ++ [0x00#8] ++ qtY.toList ++ [0x01#8] ++ qtC.toList

/-- `EmitSOF0` (45_framer.md R284). -/
def sof0Bytes (width height : BitVec 16) : List Byte :=
  wordBytes 0xFFC0#16 ++ wordBytes 17#16 ++ [8#8] ++ wordBytes height ++ wordBytes width ++ [3#8] ++
    [1#8, 0x11#8, 0#8] ++ [2#8, 0x11#8, 1#8] ++ [3#8, 0x11#8, 1#8]

/-- One table of the DHT segment: its class and id, its counts, its values (45_framer.md R285). -/
def dhtTable (tcth : Byte) (t : HuffSpec) : List Byte :=
  tcth :: (t.bits.map (BitVec.ofNat 8) ++ t.vals.map (BitVec.ofNat 8))

/-- `EmitDHT`: one segment with the four tables (45_framer.md R285). -/
def dhtBytes : List Byte :=
  wordBytes 0xFFC4#16 ++ wordBytes 0x01A2#16 ++ dhtTable 0x00#8 dcLuma ++ dhtTable 0x10#8 acLuma ++
    dhtTable 0x01#8 dcChroma ++ dhtTable 0x11#8 acChroma

/-- `EmitSOS` (45_framer.md R286). -/
def sosBytes : List Byte :=
  wordBytes 0xFFDA#16 ++ wordBytes 12#16 ++ [3#8] ++ [1#8, 0x00#8] ++ [2#8, 0x11#8] ++ [3#8, 0x11#8] ++
    [0x00#8, 0x3F#8, 0x00#8]

/-- The bytes EmitHeader sends, in order (45_framer.md R280). -/
def headerBytes (s : State) : List Byte :=
  soiBytes ++ app0Bytes ++ dqtBytes s.qtY s.qtC ++ sof0Bytes s.width s.height ++ dhtBytes ++ sosBytes

/-- `EmitHeader()`, which ends with the accumulator reset (45_framer.md R280). -/
def emitHeader (s : State) (w : Writer) : Writer := resetAccumulator (emitRaws s.par.maxOut (headerBytes s) w)

/-- `EmitWord(0xFFD9)`, the end-of-image marker (45_framer.md R288). -/
def emitEoi (cap : Nat) (w : Writer) : Writer := emitWord cap 0xFFD9#16 w

end Sys2Proof.Machine
end

