-- ==== Sys2Proof/Machine/Commands.lean ====
section
/-! DEFINITION. The meanings of the seven commands and of a CMD write (40_commands.md §1, §2). -/

namespace Sys2Proof.Machine

/-- NOP (40_commands.md R110). -/
def execNop (s : State) : Result := .next s

/-- SET_QUALITY: at once while idle, pending during a session (40_commands.md R111). -/
def execSetQuality (imm : BitVec 16) (s : State) : Result :=
  let q := qualityOperand imm
  if s.running then .next { s with qPend := q, qPending := true }
  else .next (applyQuality q.toNat { s with qPend := q, qAct := q })

/-- What START changes before the header goes out (40_commands.md R112). -/
def openSession (s : State) : State :=
  { s with
    wr := { s.wr with out := [], ovf := false }
    outAddr := 0#32
    complete := false
    truncated := false
    consumed := false
    curX := 0#32
    curY := 0#32
    pixDone := 0#32
    pixTotal := BitVec.ofNat 32 (s.width.toNat * s.height.toNat)
    predY := 0
    predCb := 0
    predCr := 0 }

/-- START (40_commands.md R112). -/
def execStart (s : State) : Result :=
  if s.running then raiseUsageError .startRunning s
  else if s.width = 0#16 ∨ s.height = 0#16 then raiseUsageError .startNoSource s
  else if s.par.maxPixels < s.width.toNat * s.height.toNat then raiseUsageError .startTooLarge s
  else
    let t := openSession s
    .next { t with wr := emitHeader t t.wr, running := true }

/-- What BLOCK changes once its MCU is coded: the output side, the predictors, PIX_DONE, and the cursor
(40_commands.md R113, 43_entropy.md R229). -/
def closeBlock (y cb cr : Vector Int 64) (w : Writer) (s : State) : State :=
  advanceCursor { s with
    wr := w
    predY := pick y 0 0
    predCb := pick cb 0 0
    predCr := pick cr 0 0
    pixDone := s.pixDone + BitVec.ofNat 32 (blockPixels s) }

/-- BLOCK's encoding of the MCU at the cursor, past its two checks (40_commands.md R113). -/
def encodeBlock (s : State) : Result :=
  orFault (blockUnits s) fun (y, cb, cr) =>
    orFault (codeUnits s y cb cr) fun w => .next (closeBlock y cb cr w s)

/-- BLOCK (40_commands.md R113). It runs with the cursor in the image (41_color_fdct.md R160). -/
def execBlock (s : State) : Result :=
  if s.running = false then raiseUsageError .notRunning s
  else if s.consumed then raiseUsageError .blockConsumed s
  else if cursorInImage s = false then .fault .cursorOutsideImage
  else encodeBlock s

/-- What TAIL changes past the padding: EOI, the pending quality, the lifecycle bits and the completion interrupt
(40_commands.md R114). -/
def closeSession (w : Writer) (s : State) : State :=
  { applyPending { s with wr := emitEoi s.par.maxOut w } with
    running := false
    consumed := false
    complete := true
    doneIp := true }

/-- TAIL (40_commands.md R114). -/
def execTail (s : State) : Result :=
  if s.running = false then raiseUsageError .notRunning s
  else if s.consumed = false then raiseUsageError .tailEarly s
  else orFault (padToByte s.par.maxOut s.par.tailPad s.wr) fun w => .next (closeSession w s)

/-- STOP: no effect while idle (40_commands.md R115). -/
def execStop (s : State) : Result :=
  if s.running = false then .next s
  else .next (applyPending { s with running := false, consumed := false, truncated := true })

/-- DISPOSE: no effect during a session (40_commands.md R116). -/
def execDispose (s : State) : Result :=
  if s.running then .next s
  else .next { s with
    wr := { s.wr with out := [], ovf := false }
    outAddr := 0#32
    complete := false
    truncated := false }

/-- A CMD write: decode the word, run the command, or raise ILLEGAL_CMD (40_commands.md R118). -/
def execWrCmd (w : Word) (s : State) : Result :=
  match decodeCmd w with
  | none => raiseUsageError .illegalCmd s
  | some .nop => execNop s
  | some (.setQuality imm) => execSetQuality imm s
  | some .start => execStart s
  | some .block => execBlock s
  | some .tail => execTail s
  | some .stop => execStop s
  | some .dispose => execDispose s

end Sys2Proof.Machine
end

