-- ==== Sys2Proof/Machine/Registers.lean ====
section
/-! DEFINITION. The meanings of the register reads and writes (40_commands.md §3, 10_state.md §6). -/

namespace Sys2Proof.Machine

/-- A register read that returns `v` and changes nothing else (40_commands.md R130). -/
def readValue (v : Word) (s : State) : Result := .next (answer v s)

/-- A register write that the session state refuses with CFG_RUNNING (40_commands.md R138, R139). -/
def writeWhileIdle (s t : State) : Result := if s.running then raiseUsageError .cfgRunning s else .next t

/-- ID (40_commands.md R132, 10_state.md R44). -/
def execRdId (s : State) : Result := readValue 0x4A504547#32 s

/-- CAP_PIX (40_commands.md R132, 10_state.md R44). -/
def execRdCapPix (s : State) : Result := readValue (BitVec.ofNat 32 s.par.maxPixels) s

/-- CAP_OUT (40_commands.md R132, 10_state.md R44). -/
def execRdCapOut (s : State) : Result := readValue (BitVec.ofNat 32 s.par.maxOut) s

/-- CMD reads 0 (40_commands.md R133). -/
def execRdCmd (s : State) : Result := readValue 0#32 s

/-- STATUS (40_commands.md R134). -/
def execRdStatus (s : State) : Result := readValue (statusWord s) s

/-- STATUS, write 1 to clear (40_commands.md R135). -/
def execWrStatus (v : Word) (s : State) : Result := .next (clearStatus v s)

/-- ERR_CODE (40_commands.md R130, 10_state.md R47). -/
def execRdErrCode (s : State) : Result := readValue (s.wr.errCode.setWidth 32) s

/-- IRQ_EN (40_commands.md R136). -/
def execRdIrqEn (s : State) : Result := readValue (s.irqEn.setWidth 32) s

/-- IRQ_EN (40_commands.md R136). -/
def execWrIrqEn (v : Word) (s : State) : Result := .next { s with irqEn := v.extractLsb' 0 2 }

/-- QUALITY (40_commands.md R137, 10_state.md R49). -/
def execRdQuality (s : State) : Result :=
  readValue (s.qAct.setWidth 32 ||| s.qPend.setWidth 32 <<< 8 ||| bitAt 16 s.qPending) s

/-- WIDTH (40_commands.md R138). -/
def execRdWidth (s : State) : Result := readValue (s.width.setWidth 32) s

/-- WIDTH, refused while running (40_commands.md R138). -/
def execWrWidth (v : Word) (s : State) : Result := writeWhileIdle s { s with width := v.extractLsb' 0 16 }

/-- HEIGHT (40_commands.md R138). -/
def execRdHeight (s : State) : Result := readValue (s.height.setWidth 32) s

/-- HEIGHT, refused while running (40_commands.md R138). -/
def execWrHeight (v : Word) (s : State) : Result := writeWhileIdle s { s with height := v.extractLsb' 0 16 }

/-- PIX_ADDR (40_commands.md R138). -/
def execRdPixAddr (s : State) : Result := readValue s.pixAddr s

/-- PIX_ADDR, refused while running (40_commands.md R138). -/
def execWrPixAddr (v : Word) (s : State) : Result := writeWhileIdle s { s with pixAddr := v }

/-- PIX_DATA: store one pixel and advance PIX_ADDR (40_commands.md R139). -/
def execWrPixData (v : Word) (s : State) : Result :=
  if s.running then raiseUsageError .cfgRunning s
  else if s.pixAddr.toNat < s.par.maxPixels then
    .next { pixStore s.pixAddr.toNat v s with pixAddr := s.pixAddr + 1#32 }
  else raiseUsageError .pixRange s

/-- PIX_DATA reads 0 (40_commands.md R139). -/
def execRdPixData (s : State) : Result := readValue 0#32 s

/-- CUR_X (40_commands.md R140). -/
def execRdCurX (s : State) : Result := readValue s.curX s

/-- CUR_Y (40_commands.md R140). -/
def execRdCurY (s : State) : Result := readValue s.curY s

/-- PIX_DONE (40_commands.md R140). -/
def execRdPixDone (s : State) : Result := readValue s.pixDone s

/-- PIX_TOTAL (40_commands.md R140). -/
def execRdPixTotal (s : State) : Result := readValue s.pixTotal s

/-- OUT_LEN: 0 while running (40_commands.md R141). -/
def execRdOutLen (s : State) : Result :=
  readValue (if s.running then 0#32 else BitVec.ofNat 32 s.wr.out.length) s

/-- OUT_ADDR (40_commands.md R142). -/
def execRdOutAddr (s : State) : Result := readValue s.outAddr s

/-- OUT_ADDR, in every state (40_commands.md R142). -/
def execWrOutAddr (v : Word) (s : State) : Result := .next { s with outAddr := v }

/-- OUT_DATA: one byte, and OUT_ADDR advances; 0 and no advance while running or past the end (40_commands.md R144). -/
def execRdOutData (s : State) : Result :=
  if s.running ∨ s.wr.out.length ≤ s.outAddr.toNat then readValue 0#32 s
  else readValue ((s.wr.out.getD s.outAddr.toNat 0#8).setWidth 32) { s with outAddr := s.outAddr + 1#32 }

/-- PRED_Y, two's complement (40_commands.md R145). -/
def execRdPredY (s : State) : Result := readValue (BitVec.ofInt 32 s.predY) s

/-- PRED_CB, two's complement (40_commands.md R145). -/
def execRdPredCb (s : State) : Result := readValue (BitVec.ofInt 32 s.predCb) s

/-- PRED_CR, two's complement (40_commands.md R145). -/
def execRdPredCr (s : State) : Result := readValue (BitVec.ofInt 32 s.predCr) s

/-- BITACC (40_commands.md R146). -/
def execRdBitacc (s : State) : Result :=
  readValue (s.wr.byteNew.setWidth 32 ||| s.wr.bytePos.setWidth 32 <<< 8) s

/-- QT_Y[k] (40_commands.md R147). -/
def execRdQtY (k : BitVec 6) (s : State) : Result := readValue ((s.qtY.toList.getD k.toNat 0#8).setWidth 32) s

/-- QT_C[k] (40_commands.md R147). -/
def execRdQtC (k : BitVec 6) (s : State) : Result := readValue ((s.qtC.toList.getD k.toNat 0#8).setWidth 32) s

/-- A read of a reserved offset returns 0 (40_commands.md R130, 10_state.md R57). -/
def readReserved (s : State) : Result := readValue 0#32 s

/-- A write to a read-only register or a reserved offset is ignored (40_commands.md R131, 10_state.md R57). -/
def writeIgnored (s : State) : Result := .next s

end Sys2Proof.Machine
end

