-- ==== Sys2Proof/Machine/Dispatch.lean ====
section
/-! DEFINITION. One arm per instruction. -/

namespace Sys2Proof.Machine

/-- What an instruction does: the seven commands (40_commands.md R110 to R116) and the register accesses (R118, R130 to
R147). -/
def exec (i : Instr) (s : State) : Host.Outcome State Fault Refusal :=
  match i with
  | .nop => Sys2Proof.Machine.execNop s
  | .setQuality imm => Sys2Proof.Machine.execSetQuality imm s
  | .start => Sys2Proof.Machine.execStart s
  | .block => Sys2Proof.Machine.execBlock s
  | .tail => Sys2Proof.Machine.execTail s
  | .stop => Sys2Proof.Machine.execStop s
  | .dispose => Sys2Proof.Machine.execDispose s
  | .rdId => Sys2Proof.Machine.execRdId s
  | .rdCapPix => Sys2Proof.Machine.execRdCapPix s
  | .rdCapOut => Sys2Proof.Machine.execRdCapOut s
  | .wrCmd w => Sys2Proof.Machine.execWrCmd w s
  | .rdCmd => Sys2Proof.Machine.execRdCmd s
  | .rdStatus => Sys2Proof.Machine.execRdStatus s
  | .wrStatus v => Sys2Proof.Machine.execWrStatus v s
  | .rdErrCode => Sys2Proof.Machine.execRdErrCode s
  | .rdIrqEn => Sys2Proof.Machine.execRdIrqEn s
  | .wrIrqEn v => Sys2Proof.Machine.execWrIrqEn v s
  | .rdQuality => Sys2Proof.Machine.execRdQuality s
  | .rdWidth => Sys2Proof.Machine.execRdWidth s
  | .wrWidth v => Sys2Proof.Machine.execWrWidth v s
  | .rdHeight => Sys2Proof.Machine.execRdHeight s
  | .wrHeight v => Sys2Proof.Machine.execWrHeight v s
  | .rdPixAddr => Sys2Proof.Machine.execRdPixAddr s
  | .wrPixAddr v => Sys2Proof.Machine.execWrPixAddr v s
  | .wrPixData v => Sys2Proof.Machine.execWrPixData v s
  | .rdPixData => Sys2Proof.Machine.execRdPixData s
  | .rdCurX => Sys2Proof.Machine.execRdCurX s
  | .rdCurY => Sys2Proof.Machine.execRdCurY s
  | .rdPixDone => Sys2Proof.Machine.execRdPixDone s
  | .rdPixTotal => Sys2Proof.Machine.execRdPixTotal s
  | .rdOutLen => Sys2Proof.Machine.execRdOutLen s
  | .rdOutAddr => Sys2Proof.Machine.execRdOutAddr s
  | .wrOutAddr v => Sys2Proof.Machine.execWrOutAddr v s
  | .rdOutData => Sys2Proof.Machine.execRdOutData s
  | .rdPredY => Sys2Proof.Machine.execRdPredY s
  | .rdPredCb => Sys2Proof.Machine.execRdPredCb s
  | .rdPredCr => Sys2Proof.Machine.execRdPredCr s
  | .rdBitacc => Sys2Proof.Machine.execRdBitacc s
  | .rdQtY k => Sys2Proof.Machine.execRdQtY k s
  | .rdQtC k => Sys2Proof.Machine.execRdQtC k s

end Sys2Proof.Machine
end

