-- ==== Sys2Proof/Machine/Serve.lean ====
section
/-! DEFINITION. Performing one event of the host, and placing an access as the next one. -/

namespace Sys2Proof.Machine

/-- The refusal of an access that is not admitted (20_memory.md R72). -/
def refusalOf : Reject → Refusal
  | .width => .accessWidth
  | .misaligned => .accessMisaligned

/-- The whole effect of one event, one atomic step of the unit (20_memory.md R71, 70_reset_and_hazards.md R341). -/
def serve (e : Event) (s : State) : Result :=
  match e with
  | .reset => .next (resetUnit s)
  | .access a =>
    match decode a with
    | .instr i => exec i s
    | .reservedRead => readReserved s
    | .ignoredWrite => writeIgnored s
    | .reject r => .refused (refusalOf r)

/-- The step with no access pending: the unit does nothing and keeps all its state (60_exceptions.md R327,
70_reset_and_hazards.md R342). -/
def idle (s : State) : Result := .next s

/-- The host's next event is `e`. -/
def place (e : Event) (s : State) : State := { s with host := e :: s.host }

end Sys2Proof.Machine
end

