-- ==== Sys2Proof/Machine/Step.lean ====
section
/-! DEFINITION. One step: the unit performs the host's oldest access (20_memory.md R71, R77). -/

namespace Sys2Proof.Machine

/-- One step: the next event leaves `host` and has its effect; with none pending the unit is idle. -/
def step (s : State) : Host.Outcome State Fault Refusal :=
  match s.host with
  | [] => idle s
  | e :: rest => serve e { s with host := rest }

/-- The state whose next step performs the access that a row of spec/opcode_table.json describes (log entry 11). -/
def State.withFetchWord (s : State) (nbits w : Nat) : State := place (.access (tableAccess nbits w)) s

end Sys2Proof.Machine
end

