-- ==== Sys2Proof/Machine/Program.lean ====
section
/-! DEFINITION. The host-program syntax and the pseudo-instructions of 30_encoding.md §4, as lists of events. -/

namespace Sys2Proof.Machine

/-- `wr REG, value` at the register's offset (30_encoding.md R97). -/
def wr (off : BitVec 12) (v : Word) : Event := .access (writeAt off v)

/-- `rd REG` at the register's offset (30_encoding.md R97). -/
def rd (off : BitVec 12) : Event := .access (readAt off)

/-- `cmd MNEMONIC` (30_encoding.md R97). -/
def cmd (c : Cmd) : Event := .access (cmdAccess c)

/-- `loadimg W, H, p0, ..., pN-1` (30_encoding.md R98). -/
def loadimg (w h : Word) (pixels : List Word) : List Event :=
  wr 0x024#12 w :: wr 0x028#12 h :: wr 0x02C#12 0#32 :: pixels.map (wr 0x030#12)

/-- The BLOCKs of a w by h image: `ceil(w/8) * ceil(h/8)` (40_commands.md R120). -/
def blockCount (w h : Nat) : Nat := (w + 7) / 8 * ((h + 7) / 8)

/-- `encode`, for a w by h image (30_encoding.md R98). -/
def encodeImage (w h : Nat) : List Event := cmd .start :: (List.replicate (blockCount w h) (cmd .block) ++ [cmd .tail])

/-- `clrerr` (30_encoding.md R98). -/
def clrerr : Event := wr 0x014#12 0x00000100#32

/-- `clrdone` (30_encoding.md R98). -/
def clrdone : Event := wr 0x014#12 0x00010000#32

/-- `readout`, for an output of n bytes (30_encoding.md R98). -/
def readout (n : Nat) : List Event := rd 0x044#12 :: wr 0x048#12 0#32 :: List.replicate n (rd 0x04C#12)

end Sys2Proof.Machine
end

