-- ==== Sys2Proof/Safety.lean ====
section
/-! DEFINITION. What holds between any two host accesses (10_state.md R59), and what a failed run is
(60_exceptions.md R317). -/

namespace Sys2Proof.Machine

/-- The five lifecycle states (10_state.md R23). -/
inductive Lifecycle where
  | empty
  | encoding
  | tailDue
  | finished
  | stopped
deriving DecidableEq, Repr

/-- The lifecycle state the four bits name, if any (10_state.md R23). -/
def lifecycle (s : State) : Option Lifecycle :=
  match s.running, s.consumed, s.complete, s.truncated with
  | false, false, false, false => some .empty
  | true, false, false, false => some .encoding
  | true, true, false, false => some .tailDue
  | false, false, true, false => some .finished
  | false, false, false, true => some .stopped
  | _, _, _, _ => none

/-- The tables are those ApplyQuality gives for Q_ACT (R59, item 1). -/
def tablesOfQuality (s : State) : Prop :=
  s.qtY = quantTable yqt s.qAct.toNat ∧ s.qtC = quantTable cqt s.qAct.toNat ∧ s.fdY = scaleTable s.qtY ∧
    s.fdC = scaleTable s.qtC

/-- Both qualities lie in 1..100 (R59, item 4). -/
def qualitiesInRange (s : State) : Prop :=
  (1 ≤ s.qAct.toNat ∧ s.qAct.toNat ≤ 100) ∧ (1 ≤ s.qPend.toNat ∧ s.qPend.toNat ≤ 100)

/-- The cursor stands at multiples of 8, at most 65536 (R59, item 5; 40_commands.md R120). -/
def cursorAligned (s : State) : Prop :=
  (s.curX.toNat % 8 = 0 ∧ s.curX.toNat ≤ 65536) ∧ (s.curY.toNat % 8 = 0 ∧ s.curY.toNat ≤ 65536)

/-- `BYTE_NEW[BYTE_POS:0] = 0` (R59, item 7). -/
def accumulatorClear (w : Writer) : Prop := w.byteNew.toNat % 2 ^ (w.bytePos.toNat + 1) = 0

/-- With ERR clear, ERR_CODE is NONE and ERR_MULTI is clear; with ERR set, ERR_CODE is one of the codes 1..10
(10_state.md R41, 60_exceptions.md R311, R312). -/
def errorRecordLegal (w : Writer) : Prop :=
  (w.err = false → w.errCode = 0#8 ∧ w.errMulti = false) ∧
    (w.err = true → 1 ≤ w.errCode.toNat ∧ w.errCode.toNat ≤ 10)

/-- The pixels of the blocks before the cursor, while the cursor is in the image (40_commands.md R119, R120). -/
def pixelsBeforeCursor (s : State) : Nat :=
  s.curY.toNat * s.width.toNat + s.curX.toNat * min 8 (s.height.toNat - s.curY.toNat)

/-- What a session keeps while it runs: the image fits the pixel RAM (40_commands.md R112), PIX_TOTAL is its size
(R36), QPEND may be set, OUT starts with the header of this image and these tables (R59, item 2; 45_framer.md R287),
and PIX_DONE counts the blocks done: until CONSUMED those before the cursor, which stands in the image (R59, item 5),
and then all (R36). -/
def sessionSound (s : State) : Prop :=
  s.width.toNat * s.height.toNat ≤ s.par.maxPixels ∧
    s.pixTotal.toNat = s.width.toNat * s.height.toNat ∧
    s.wr.out.take 607 = headerBytes s ∧
    (s.consumed = false → s.curX.toNat < s.width.toNat ∧ s.curY.toNat < s.height.toNat ∧
      s.pixDone.toNat = pixelsBeforeCursor s) ∧
    (s.consumed = true → s.curX = 0#32 ∧ s.curY.toNat = 8 * ((s.height.toNat + 7) / 8) ∧ s.pixDone = s.pixTotal)

/-- What holds between any two host accesses (10_state.md R59, R23; 20_memory.md R63). -/
structure Inv (s : State) : Prop where
  params    : s.par.wf = true
  lifecycle : (lifecycle s).isSome = true
  tables    : tablesOfQuality s
  pending   : s.running = false → s.qPending = false
  qualities : qualitiesInRange s
  cursor    : cursorAligned s
  progress  : s.pixDone.toNat ≤ s.pixTotal.toNat
  accum     : accumulatorClear s.wr
  error     : errorRecordLegal s.wr
  room      : s.wr.out.length ≤ s.par.maxOut
  pixels    : s.pix.wf = true ∧ ∀ i v, s.pix.read i = some v → i < s.par.maxPixels
  session   : s.running = true → sessionSound s

/-- The DC predictors' bounds (41_color_fdct.md R170, 10_state.md R37). -/
def predictorsInRange (s : State) : Prop :=
  (-1024 ≤ s.predY ∧ s.predY ≤ 1016) ∧ (-1020 ≤ s.predCb ∧ s.predCb ≤ 1020) ∧ (-1020 ≤ s.predCr ∧ s.predCr ≤ 1020)

/-- Every FF is followed at once by 00 (44_bitwriter.md R267). -/
def stuffed : List Byte → Bool
  | [] => true
  | [b] => b != 0xFF#8
  | b :: c :: rest => (b != 0xFF#8 || c == 0x00#8) && stuffed (c :: rest)

/-- The entropy-coded bytes of the output: past the header, and without the EOI of a complete stream. -/
def scanBytes (s : State) : List Byte :=
  if s.complete then (s.wr.out.drop 607).take (s.wr.out.length - 609) else s.wr.out.drop 607

/-- The entropy-coded bytes hold no FF but those followed at once by 00, in a run that has not overflowed
(44_bitwriter.md R267). -/
def scanSound (s : State) : Prop := s.wr.ovf = false → stuffed (scanBytes s) = true

/-- The offsets, multiples of 4, that the register map reserves (10_state.md R57). -/
def reservedOffset (off : BitVec 12) : Bool :=
  decide (off.toNat = 0x00C) || (decide (0x060 ≤ off.toNat) && decide (off.toNat ≤ 0x0FC)) || decide (0x300 ≤ off.toNat)

/-- The offsets of the read-only registers (40_commands.md R131). -/
def readOnlyOffset (off : BitVec 12) : Bool :=
  [0x000, 0x004, 0x008, 0x018, 0x020, 0x034, 0x038, 0x03C, 0x040, 0x044, 0x04C, 0x050, 0x054, 0x058, 0x05C].contains
    off.toNat || (decide (0x100 ≤ off.toNat) && decide (off.toNat < 0x300))

/-- The state before plus one error with code `n` in the error record: the code stays if an error was already there,
and ERR_MULTI says so (60_exceptions.md R312). -/
def withError (n : Byte) (s : State) : State :=
  { s with wr := { s.wr with
      err := true
      errCode := if s.wr.err then s.wr.errCode else n
      errMulti := s.wr.errMulti || s.wr.err } }

/-- A run whose output overflowed has failed: its output is no valid stream (60_exceptions.md R317). -/
def failedRun (s : State) : Bool := s.wr.ovf

/-- A data unit the tables can code against a predictor: every AC value has at most 10 bits and the DC difference at
most 11 (41_color_fdct.md R170, 43_entropy.md R222). -/
def codable (pred : Int) (du : Vector Int 64) : Prop :=
  (pick du 0 0 - pred).natAbs ≤ 2047 ∧ ∀ k, 1 ≤ k → k < 64 → (pick du k 0).natAbs ≤ 1023

/-- The n low bits of v, most significant first (44_bitwriter.md R261). -/
def msbBits (n v : Nat) : List Bool := (List.range n).map fun j => v.testBit (n - 1 - j)

/-- The bits sent since the last completed byte, `BYTE_NEW[7:BYTE_POS+1]` (44_bitwriter.md R260). -/
def pendingBits (w : Writer) : List Bool := (msbBits 8 w.byteNew.toNat).take (7 - w.bytePos.toNat)

/-- A completed entropy-coded byte with its stuffing (44_bitwriter.md R262). -/
def stuffByte (b : Byte) : List Byte := if b = 0xFF#8 then [0xFF#8, 0x00#8] else [b]

/-- A symbol sent by PutCode, with the value whose magnitude bits follow (0 where none follow). -/
abbrev Token := Nat × Int

/-- Sending tokens one after the other. -/
def sendTokens (cap : Nat) (ht : List HuffCode) : List Token → Writer → Except Fault Writer
  | [], w => .ok w
  | (sym, v) :: ts, w => andThen (putValue cap ht sym v w) fun w => sendTokens cap ht ts w

/-- The coefficients that AC tokens stand for: ZRL is sixteen zeros, EOB none, and a symbol run*16 + s is `run` zeros
and then its value (43_entropy.md R222). -/
def expandTokens : List Token → List Int
  | [] => []
  | (sym, v) :: ts =>
    if sym = 0x00 then expandTokens ts
    else if sym = 0xF0 then List.replicate 16 0 ++ expandTokens ts
    else List.replicate (sym / 16) 0 ++ v :: expandTokens ts

/-- BLOCK commands one after the other: the state after `n` of them, if each answers a next state. -/
def blocks : Nat → State → Option State
  | 0, s => some s
  | n + 1, s =>
    match exec .block s with
    | .next t => blocks n t
    | .fault _ => none
    | .refused _ => none

/-- OUT_DATA reads one after the other: the values of `n` of them and the state after (40_commands.md R144). -/
def readBytes : Nat → State → List Word × State
  | 0, s => ([], s)
  | n + 1, s =>
    match exec .rdOutData s with
    | .next t => (t.rdata :: (readBytes n t).1, (readBytes n t).2)
    | .fault _ => ([], s)
    | .refused _ => ([], s)

end Sys2Proof.Machine
end

