-- ==== Sys2Proof/Certificates/Slice0/Obligations.lean ====
section
/-! DEFINITION. The statements about the model, for the provers. Each docstring names the rules of spec/ it formalises. -/

open Sys2Proof Sys2Proof.Machine

/-! ## Encoding and the step -/

/-- Every well-formed instruction decodes from its own access, and every command from its own word
(30_encoding.md R93, R95; 10_state.md R43). -/
def Obligations.DecodeInvertsEncode : Prop :=
  (∀ i : Instr, WellFormed i = true → decode (encode i) = .instr i) ∧
  ∀ c : Cmd, decodeCmd (encodeCmd c) = some c

/-- Every access that decodes to an instruction is that instruction's own access, but for the value a read carries,
which nothing reads; and the instruction is well formed (30_encoding.md R93, R95; 10_state.md R43). -/
def Obligations.EncodeInvertsDecode : Prop :=
  ∀ (a : Access) (i : Instr), decode a = .instr i →
    WellFormed i = true ∧ encode i = (if a.kind = .read then { a with data := 0#32 } else a)

/-- 30_encoding.md R96: six words are the format-C commands, the words whose low half is 0x0001 are SET_QUALITY, one for
each immediate, and every other word is ILLEGAL. -/
def Obligations.CommandWordsAreExactlyThese : Prop :=
  ∀ w : Word,
    (decodeCmd w = some .nop ↔ w = 0x00000000#32) ∧
    (decodeCmd w = some .start ↔ w = 0x00000002#32) ∧
    (decodeCmd w = some .block ↔ w = 0x00000003#32) ∧
    (decodeCmd w = some .tail ↔ w = 0x00000004#32) ∧
    (decodeCmd w = some .stop ↔ w = 0x00000005#32) ∧
    (decodeCmd w = some .dispose ↔ w = 0x00000006#32) ∧
    (∀ imm, decodeCmd w = some (.setQuality imm) ↔ w.extractLsb' 0 16 = 0x0001#16 ∧ imm = w.extractLsb' 16 16) ∧
    (∀ imm, ∃! u, decodeCmd u = some (.setQuality imm)) ∧
    (decodeCmd w = none ↔
      w ∉ [0x00000000#32, 0x00000002#32, 0x00000003#32, 0x00000004#32, 0x00000005#32, 0x00000006#32] ∧
        w.extractLsb' 0 16 ≠ 0x0001#16)

/-- Accesses written out from the register map (10_state.md R43) and the opcode map (30_encoding.md R93, R94) decode to
what they stand for, one or more of each family. -/
def Obligations.SampleAccessesDecode : Prop :=
  decode { kind := .write, off := 0x010#12, size := 4, data := 0x00000003#32 } = .instr .block ∧
  decode { kind := .write, off := 0x010#12, size := 4, data := 0x004B0001#32 } = .instr (.setQuality 75#16) ∧
  decode { kind := .write, off := 0x010#12, size := 4, data := 0x00000107#32 } = .instr (.wrCmd 0x00000107#32) ∧
  decode { kind := .read, off := 0x014#12, size := 4, data := 0#32 } = .instr .rdStatus ∧
  decode { kind := .write, off := 0x030#12, size := 4, data := 0xFF808080#32 } = .instr (.wrPixData 0xFF808080#32) ∧
  decode { kind := .read, off := 0x04C#12, size := 4, data := 0#32 } = .instr .rdOutData ∧
  decode { kind := .read, off := 0x1FC#12, size := 4, data := 0#32 } = .instr (.rdQtY 63#6) ∧
  decode { kind := .read, off := 0x200#12, size := 4, data := 0#32 } = .instr (.rdQtC 0#6) ∧
  decode { kind := .read, off := 0x060#12, size := 4, data := 0#32 } = .reservedRead ∧
  decode { kind := .write, off := 0x018#12, size := 4, data := 1#32 } = .ignoredWrite

/-- A step performs the host's oldest access: the instruction it decodes to, in the state without that access
(20_memory.md R71, R77). With no access pending the unit keeps all its state (60_exceptions.md R327). The host queue is
the model's own (log entry 1). -/
def Obligations.StepRunsTheDecodedInstruction : Prop :=
  (∀ (s : State) (a : Access) (rest : List Event) (i : Instr),
    s.host = .access a :: rest → decode a = .instr i → step s = exec i { s with host := rest }) ∧
  (∀ (s : State) (i : Instr), WellFormed i = true → step (place (.access (encode i)) s) = exec i s) ∧
  ∀ s : State, s.host = [] → step s = .next s

/-- A read of a reserved offset returns 0 and has no side effect (10_state.md R57, 40_commands.md R130). -/
def Obligations.ReservedReadsReturnZero : Prop :=
  ∀ (s : State) (off : BitVec 12), off.toNat % 4 = 0 → reservedOffset off = true →
    serve (.access (readAt off)) s = .next { s with rdata := 0#32 }

/-- 40_commands.md R131: a write to a read-only register or to a reserved offset is ignored and raises no error. -/
def Obligations.WritesToReadOnlyOffsetsAreIgnored : Prop :=
  ∀ (s : State) (off : BitVec 12) (v : Word), off.toNat % 4 = 0 → (readOnlyOffset off = true ∨ reservedOffset off = true) →
    serve (.access (writeAt off v)) s = .next s

/-- 20_memory.md R72: exactly the accesses that are not 32 bits wide at a multiple of 4 are refused. A refusal leaves no
next state, so it has no effect. -/
def Obligations.OnlyInadmissibleAccessesAreRefused : Prop :=
  ∀ (s : State) (a : Access),
    (∃ r, serve (.access a) s = .refused r) ↔ ¬(a.size = 4 ∧ a.off.toNat % 4 = 0)

/-- The register space takes the 4096 addresses from UNIT_BASE on (20_memory.md R60, 60_exceptions.md R324), whatever
UNIT_BASE is. -/
def Obligations.UnitBaseWindow : Prop :=
  ∀ (addr : Nat) (off : BitVec 12),
    unitOffset addr = some off ↔ Config.unitBase ≤ addr ∧ addr - Config.unitBase = off.toNat

/-! ## Reset -/

/-- What reset leaves (70_reset_and_hazards.md R340; 10_state.md R22 to R42): the elements, and what the registers read.
The tables are those of the quality 50: the base tables in zigzag order. No pixel word is listed as written. -/
def Obligations.ResetLeavesTheResetState : Prop :=
  State.reset = State.resetWith Config.params ∧ Config.params.resetQuality = 50#8 ∧
  ∀ p : Params, p.resetQuality = 50#8 →
    let s := State.resetWith p
    (s.curX = 0#32 ∧ s.curY = 0#32 ∧ lifecycle s = some .empty ∧ s.wr.ovf = false) ∧
    (s.qAct = 50#8 ∧ s.qPend = 50#8 ∧ s.qPending = false) ∧
    s.qtY.toList.map BitVec.toNat = unzz.map (entry yqt) ∧
    s.qtC.toList.map BitVec.toNat = unzz.map (entry cqt) ∧
    s.fdY = scaleTable s.qtY ∧ s.fdC = scaleTable s.qtC ∧
    (s.width = 0#16 ∧ s.height = 0#16 ∧ s.pixAddr = 0#32 ∧ s.pixDone = 0#32 ∧ s.pixTotal = 0#32) ∧
    (∀ i, s.pix.read i = none) ∧
    (s.predY = 0 ∧ s.predCb = 0 ∧ s.predCr = 0) ∧
    (s.wr.out = [] ∧ s.outAddr = 0#32 ∧ s.wr.byteNew = 0#8 ∧ s.wr.bytePos = 7#3) ∧
    (s.wr.err = false ∧ s.wr.errCode = 0#8 ∧ s.wr.errMulti = false) ∧
    (s.doneIp = false ∧ s.irqEn = 0#2 ∧ irqOut s = false) ∧
    exec .rdId s = .next { s with rdata := 0x4A504547#32 } ∧
    exec .rdCapPix s = .next { s with rdata := BitVec.ofNat 32 p.maxPixels } ∧
    exec .rdCapOut s = .next { s with rdata := BitVec.ofNat 32 p.maxOut } ∧
    exec .rdStatus s = .next { s with rdata := 0x00000020#32 } ∧
    exec .rdQuality s = .next { s with rdata := 0x00003232#32 } ∧
    exec .rdBitacc s = .next { s with rdata := 0x00000700#32 } ∧
    exec (.rdQtY 0#6) s = .next { s with rdata := 16#32 } ∧
    exec (.rdQtC 0#6) s = .next { s with rdata := 17#32 } ∧
    ∀ i ∈ [Instr.rdErrCode, .rdIrqEn, .rdWidth, .rdHeight, .rdPixAddr, .rdCurX, .rdCurY, .rdPixDone, .rdPixTotal,
        .rdOutLen, .rdOutAddr, .rdOutData, .rdPredY, .rdPredCb, .rdPredCr],
      exec i s = .next { s with rdata := 0#32 }

/-- A reset, at any time, puts every element into its reset state, and nothing of the state before survives it but the
parameters (70_reset_and_hazards.md R341). That the pixel RAM reads other free values after each reset (U1) is the
counter `epoch`; that `host` is kept is the model's choice (log entry 13). -/
def Obligations.PlatformResetForgetsTheSession : Prop :=
  ∀ s : State, serve .reset s = .next { State.resetWith s.par with host := s.host, epoch := s.epoch + 1 }

/-- The invariant holds after reset, for the parameters of the model and for any parameters in their ranges
(10_state.md R59, 70_reset_and_hazards.md R340). -/
def Obligations.InvariantHoldsAtReset : Prop :=
  (Inv State.reset ∧ predictorsInRange State.reset ∧ scanSound State.reset) ∧
  ∀ p : Params, p.wf = true →
    Inv (State.resetWith p) ∧ predictorsInRange (State.resetWith p) ∧ scanSound (State.resetWith p)

/-! ## The whole machine -/

/-- Every step keeps the invariant: the five lifecycle states (10_state.md R23), the seven items of R59, the canonical
pixel RAM, the bounds of the output RAM (20_memory.md R63), and what a session keeps. -/
def Obligations.StepKeepsTheInvariant : Prop :=
  ∀ s t : State, Inv s → step s = .next t → Inv t

/-- Every step keeps the DC predictors in their bounds: -1024..1016 for Y, -1020..1020 for Cb and Cr (10_state.md R37,
41_color_fdct.md R170). -/
def Obligations.PredictorsStayInRange : Prop :=
  ∀ s t : State, Inv s → predictorsInRange s → step s = .next t → predictorsInRange t

/-- 44_bitwriter.md R267: without an overflow, every step keeps the entropy-coded bytes free of an FF that is not
followed at once by 00. -/
def Obligations.ScanStaysStuffed : Prop :=
  ∀ s t : State, Inv s → scanSound s → step s = .next t → scanSound t

/-- Every admitted access completes: from a state with the invariant, no fault point is reached (60_exceptions.md R316,
41_color_fdct.md R170, 43_entropy.md R231), whatever the image. -/
def Obligations.EveryAdmittedAccessCompletes : Prop :=
  ∀ (s : State) (a : Access), Inv s → predictorsInRange s → a.admitted = true →
    ∃ t, step (place (.access a) s) = .next t

/-- No step changes the parameters; each takes one event; only a reset advances `epoch` (log entries 1, 3, 4). -/
def Obligations.StepKeepsTheParameters : Prop :=
  ∀ s t : State, step s = .next t →
    t.par = s.par ∧ t.host = s.host.tail ∧ t.epoch = (if s.host.head? = some .reset then s.epoch + 1 else s.epoch)

/-- 42_quant_zigzag.md R200: a step that leaves a session running has not changed a table, and the DQT of the session
announced the tables in force. The image is frozen the same way (20_memory.md R82, 10_state.md R33, R34). -/
def Obligations.SessionFreezesTablesAndImage : Prop :=
  (∀ s t : State, step s = .next t → t.running = true →
    (t.qtY = s.qtY ∧ t.qtC = s.qtC ∧ t.fdY = s.fdY ∧ t.fdC = s.fdC) ∧
    (t.pix = s.pix ∧ t.epoch = s.epoch ∧ t.width = s.width ∧ t.height = s.height)) ∧
  ∀ s : State, Inv s → s.running = true →
    (s.wr.out.drop 25).take 64 = s.qtY.toList ∧ (s.wr.out.drop 90).take 64 = s.qtC.toList ∧
      s.fdY = scaleTable s.qtY ∧ s.fdC = scaleTable s.qtC

/-- What each part of the session's state is changed by: the cursor, the predictors and the pixel counters by START and
BLOCK alone (10_state.md R22, R36, R37), the output by START, BLOCK, TAIL and DISPOSE alone, and then BLOCK and TAIL only
append (40_commands.md R143, 20_memory.md R63), the lifecycle bits by the commands R24 to R27 name. -/
def Obligations.SessionStateHasItsWriters : Prop :=
  ∀ (i : Instr) (s t : State), WellFormed i = true → exec i s = .next t →
    (i ∉ [Instr.start, .block] →
      t.curX = s.curX ∧ t.curY = s.curY ∧ t.predY = s.predY ∧ t.predCb = s.predCb ∧ t.predCr = s.predCr ∧
        t.pixDone = s.pixDone ∧ t.pixTotal = s.pixTotal) ∧
    (i ∉ [Instr.start, .block, .tail, .dispose] → t.wr.out = s.wr.out ∧ t.wr.ovf = s.wr.ovf) ∧
    (i ∈ [Instr.block, .tail] → s.wr.out <+: t.wr.out ∧ t.wr.out.length ≤ max s.wr.out.length s.par.maxOut) ∧
    (i ∉ [Instr.start, .block, .tail] → t.wr.byteNew = s.wr.byteNew ∧ t.wr.bytePos = s.wr.bytePos) ∧
    (i ∉ [Instr.start, .tail, .stop] → t.running = s.running) ∧
    (i ∉ [Instr.start, .block, .tail, .stop] → t.consumed = s.consumed) ∧
    (i ∉ [Instr.start, .tail, .dispose] → t.complete = s.complete) ∧
    (i ∉ [Instr.start, .stop, .dispose] → t.truncated = s.truncated)

/-- What each part of the configuration is changed by: the tables by SET_QUALITY while idle and by TAIL and STOP, which
apply a pending quality (42_quant_zigzag.md R199), the image by the pixel port and the size registers while idle
(10_state.md R33 to R35), DONE_IP set by TAIL alone and cleared by STATUS bit 16 alone (60_exceptions.md R318), IRQ_EN
and OUT_ADDR by their registers, OUT_ADDR also by START, DISPOSE and OUT_DATA (10_state.md R39). -/
def Obligations.ConfigurationHasItsWriters : Prop :=
  ∀ (i : Instr) (s t : State), WellFormed i = true → exec i s = .next t →
    ((i ∈ [Instr.tail, .stop] → s.qPending = false) → ((∃ imm, i = .setQuality imm) → s.running = true) →
      t.qtY = s.qtY ∧ t.qtC = s.qtC ∧ t.fdY = s.fdY ∧ t.fdC = s.fdC ∧ t.qAct = s.qAct) ∧
    ((∀ v, i ≠ .wrPixData v) ∨ s.running = true → t.pix = s.pix) ∧
    ((∀ v, i ≠ .wrPixData v ∧ i ≠ .wrPixAddr v) ∨ s.running = true → t.pixAddr = s.pixAddr) ∧
    ((∀ v, i ≠ .wrWidth v) ∨ s.running = true → t.width = s.width) ∧
    ((∀ v, i ≠ .wrHeight v) ∨ s.running = true → t.height = s.height) ∧
    (t.doneIp = true → s.doneIp = true ∨ (i = .tail ∧ s.running = true ∧ s.consumed = true)) ∧
    (s.doneIp = true → t.doneIp = true ∨ ∃ v : Word, i = .wrStatus v ∧ v.getLsbD 16 = true) ∧
    ((∀ v, i ≠ .wrIrqEn v) → t.irqEn = s.irqEn) ∧
    (i ∉ [Instr.start, .dispose, .rdOutData] → (∀ v, i ≠ .wrOutAddr v) → t.outAddr = s.outAddr)

/-- The first error stays in ERR and ERR_CODE until the host writes 1 to STATUS bit 8 or the platform resets the unit
(60_exceptions.md R312, R320). -/
def Obligations.FirstErrorStaysUntilCleared : Prop :=
  ∀ s t : State, step s = .next t → s.wr.err = true →
    (t.wr.err = true ∧ t.wr.errCode = s.wr.errCode ∧ (s.wr.errMulti = true → t.wr.errMulti = true)) ∨
    s.host.head? = some .reset ∨
    ∃ v : Word, v.getLsbD 8 = true ∧ s.host.head? = some (.access (writeAt 0x014#12 v)) ∧
      t.wr.err = false ∧ t.wr.errCode = 0#8 ∧ t.wr.errMulti = false

/-! ## Commands -/

/-- 40_commands.md R110: NOP has no effect, in every state. -/
def Obligations.NopChangesNothing : Prop :=
  ∀ s : State, exec .nop s = .next s

/-- 40_commands.md R111: SET_QUALITY clamps its signed operand to 1..100 and, while idle, makes the tables of that
quality by R190, R192 and R194; during a session it only leaves the quality pending. Nothing else changes. -/
def Obligations.SetQualityAppliesOrDefers : Prop :=
  ∀ (imm : BitVec 16) (s : State),
    let q : Nat := (min (max imm.toInt 1) 100).toNat
    let sf : Nat := if q < 50 then 5000 / q else 200 - 2 * q
    ∃ t, exec (.setQuality imm) s = .next t ∧ t.qPend.toNat = q ∧
      (s.running = true → t = { s with qPend := t.qPend, qPending := true }) ∧
      (s.running = false →
        t.qAct.toNat = q ∧
        (∀ i, i < 64 →
          (pick t.qtY (entry zz i) 0#8).toNat = min (max ((entry yqt i * sf + 50) / 100) 1) 255 ∧
          (pick t.qtC (entry zz i) 0#8).toNat = min (max ((entry cqt i * sf + 50) / 100) 1) 255) ∧
        t.fdY = scaleTable t.qtY ∧ t.fdC = scaleTable t.qtC ∧
        t = { s with qPend := t.qPend, qAct := t.qAct, qtY := t.qtY, qtC := t.qtC, fdY := t.fdY, fdC := t.fdC })

/-- 40_commands.md R112: START, by its checks in their order: three refusals, and otherwise an open session whose output
is the header. -/
def Obligations.StartOpensASession : Prop :=
  ∀ s : State, s.par.wf = true →
    (s.running = true → exec .start s = .next (withError 1#8 s)) ∧
    (s.running = false → s.width = 0#16 ∨ s.height = 0#16 → exec .start s = .next (withError 2#8 s)) ∧
    (s.running = false → s.width ≠ 0#16 → s.height ≠ 0#16 → s.par.maxPixels < s.width.toNat * s.height.toNat →
      exec .start s = .next (withError 3#8 s)) ∧
    (s.running = false → s.width ≠ 0#16 → s.height ≠ 0#16 → s.width.toNat * s.height.toNat ≤ s.par.maxPixels →
      ∃ total : Word, total.toNat = s.width.toNat * s.height.toNat ∧
        exec .start s = .next { s with
          running := true
          consumed := false
          complete := false
          truncated := false
          curX := 0#32
          curY := 0#32
          pixDone := 0#32
          pixTotal := total
          predY := 0
          predCb := 0
          predCr := 0
          outAddr := 0#32
          wr := { s.wr with out := headerBytes s, ovf := false, byteNew := 0#8, bytePos := 7#3 } })

/-- 45_framer.md R281 to R286: the bytes of the header's six segments, in order. The header is 607 bytes for every image
and quality (R287), and the tables stand in it at the offsets R287 gives. -/
def Obligations.HeaderLayout : Prop :=
  ∀ s : State,
    let h := headerBytes s
    let size (v : BitVec 16) : List Byte := [BitVec.ofNat 8 (v.toNat / 256), BitVec.ofNat 8 (v.toNat % 256)]
    let table (tcth : Byte) (t : HuffSpec) : List Byte :=
      tcth :: t.bits.map (BitVec.ofNat 8) ++ t.vals.map (BitVec.ofNat 8)
    h.length = 607 ∧
    h.take 2 = [0xFF#8, 0xD8#8] ∧
    (h.drop 2).take 18 = [0xFF#8, 0xE0#8, 0x00#8, 0x10#8, 0x4A#8, 0x46#8, 0x49#8, 0x46#8, 0x00#8, 0x01#8, 0x01#8,
      0x00#8, 0x00#8, 0x01#8, 0x00#8, 0x01#8, 0x00#8, 0x00#8] ∧
    (h.drop 20).take 134 = [0xFF#8, 0xDB#8, 0x00#8, 0x84#8, 0x00#8] ++ s.qtY.toList ++ [0x01#8] ++ s.qtC.toList ∧
    (h.drop 154).take 19 = [0xFF#8, 0xC0#8, 0x00#8, 0x11#8, 0x08#8] ++ size s.height ++ size s.width ++
      [0x03#8, 0x01#8, 0x11#8, 0x00#8, 0x02#8, 0x11#8, 0x01#8, 0x03#8, 0x11#8, 0x01#8] ∧
    (h.drop 173).take 420 = [0xFF#8, 0xC4#8, 0x01#8, 0xA2#8] ++ table 0x00#8 dcLuma ++ table 0x10#8 acLuma ++
      table 0x01#8 dcChroma ++ table 0x11#8 acChroma ∧
    h.drop 593 = [0xFF#8, 0xDA#8, 0x00#8, 0x0C#8, 0x03#8, 0x01#8, 0x00#8, 0x02#8, 0x11#8, 0x03#8, 0x11#8, 0x00#8,
      0x3F#8, 0x00#8]

/-- BLOCK in a session with blocks left: with the MCU at the cursor coded, the predictors are its DC values, PIX_DONE
grows by the image pixels it covers (40_commands.md R119), the cursor advances by 8 in raster order and CONSUMED is set
when it leaves the image (R120), and nothing else changes but the output side (R113; 43_entropy.md R228, R229). -/
def Obligations.BlockCodesTheMcu : Prop :=
  ∀ (s : State) (y cb cr : Vector Int 64),
    s.running = true → s.consumed = false → s.curX.toNat < s.width.toNat → s.curY.toNat < s.height.toNat →
    blockUnits s = .ok (y, cb, cr) → codable s.predY y → codable s.predCb cb → codable s.predCr cr →
    ∃ (w : Writer) (x' y' : Word),
      codeUnits s y cb cr = .ok w ∧
      (if s.width.toNat ≤ s.curX.toNat + 8 then x'.toNat = 0 ∧ y'.toNat = s.curY.toNat + 8
        else x'.toNat = s.curX.toNat + 8 ∧ y' = s.curY) ∧
      exec .block s = .next { s with
        wr := w
        predY := pick y 0 0
        predCb := pick cb 0 0
        predCr := pick cr 0 0
        pixDone := s.pixDone +
          BitVec.ofNat 32 (min 8 (s.width.toNat - s.curX.toNat) * min 8 (s.height.toNat - s.curY.toNat))
        curX := x'
        curY := y'
        consumed := decide (s.height.toNat ≤ y'.toNat) }

/-- 43_entropy.md R233 and 60_exceptions.md R315: one BLOCK appends at most 1250 bytes, after what the output held; with
that much room it records no overflow and leaves the error record alone. -/
def Obligations.BlockAppendsAtMost1250Bytes : Prop :=
  ∀ (s : State) (y cb cr : Vector Int 64) (w : Writer),
    codable s.predY y → codable s.predCb cb → codable s.predCr cr → codeUnits s y cb cr = .ok w →
    s.wr.out <+: w.out ∧ w.out.length ≤ s.wr.out.length + 1250 ∧
      (s.wr.out.length + 1250 ≤ s.par.maxOut →
        w.ovf = s.wr.ovf ∧ w.err = s.wr.err ∧ w.errCode = s.wr.errCode ∧ w.errMulti = s.wr.errMulti)

/-- A session has exactly ceil(WIDTH/8) * ceil(HEIGHT/8) BLOCK commands that succeed, left to right within each band of 8
rows and the bands top to bottom; the last leaves CONSUMED set and every pixel counted, and one more is refused
(40_commands.md R119, R120; 30_encoding.md R98). -/
def Obligations.BlocksOfASessionCoverTheImage : Prop :=
  ∀ (s t : State) (n : Nat), Inv s → s.running = true → s.consumed = false → s.curX = 0#32 → s.curY = 0#32 →
    blocks n s = some t →
    let cols := (s.width.toNat + 7) / 8
    let rows := (s.height.toNat + 7) / 8
    (n < cols * rows → t.running = true ∧ t.consumed = false ∧ t.curX.toNat = 8 * (n % cols) ∧
      t.curY.toNat = 8 * (n / cols)) ∧
    (n = cols * rows → t.running = true ∧ t.consumed = true ∧ t.curX.toNat = 0 ∧ t.curY.toNat = 8 * rows ∧
      t.pixDone = t.pixTotal ∧ t.pixTotal.toNat = s.width.toNat * s.height.toNat ∧
      exec .block t = .next (withError 5#8 t))

/-- 40_commands.md R114 and 44_bitwriter.md R266: TAIL pads the partial byte with ones, stuffs it, writes EOI, applies a
pending quality, ends the session as complete and sets DONE_IP. Nothing else changes. Where the output RAM has no room
for the at most four bytes, TAIL still ends the session (20_memory.md R64). -/
def Obligations.TailCompletesTheStream : Prop :=
  ∀ s : State, s.running = true → s.consumed = true →
    let ones : Byte := BitVec.ofNat 8 (2 ^ (s.wr.bytePos.toNat + 1) - 1)
    let pad : List Byte :=
      if s.wr.bytePos ≠ 7#3 then stuffByte (s.wr.byteNew ||| ones)
      else if s.par.tailPad = .fullByte then [0xFF#8, 0x00#8] else []
    ∃ t, exec .tail s = .next t ∧
      t = { s with
        running := false
        consumed := false
        complete := true
        doneIp := true
        wr := t.wr
        qAct := if s.qPending then s.qPend else s.qAct
        qPending := false
        qtY := if s.qPending then quantTable yqt s.qPend.toNat else s.qtY
        qtC := if s.qPending then quantTable cqt s.qPend.toNat else s.qtC
        fdY := if s.qPending then scaleTable (quantTable yqt s.qPend.toNat) else s.fdY
        fdC := if s.qPending then scaleTable (quantTable cqt s.qPend.toNat) else s.fdC } ∧
      (s.wr.out.length + 4 ≤ s.par.maxOut → accumulatorClear s.wr →
        t.wr = { s.wr with byteNew := 0#8, bytePos := 7#3, out := s.wr.out ++ pad ++ [0xFF#8, 0xD9#8] })

/-- 40_commands.md R115 and 44_bitwriter.md R268: STOP has no effect while idle; it ends a session as truncated and
applies a pending quality, and the cursor, the counters, the predictors, the accumulator and the output stay. -/
def Obligations.StopTruncates : Prop :=
  ∀ s : State,
    (s.running = false → exec .stop s = .next s) ∧
    (s.running = true → exec .stop s = .next { s with
      running := false
      consumed := false
      truncated := true
      qAct := if s.qPending then s.qPend else s.qAct
      qPending := false
      qtY := if s.qPending then quantTable yqt s.qPend.toNat else s.qtY
      qtC := if s.qPending then quantTable cqt s.qPend.toNat else s.qtC
      fdY := if s.qPending then scaleTable (quantTable yqt s.qPend.toNat) else s.fdY
      fdC := if s.qPending then scaleTable (quantTable cqt s.qPend.toNat) else s.fdC })

/-- 40_commands.md R116: DISPOSE has no effect during a session; while idle it empties the output and clears its bits,
and a second DISPOSE changes nothing. -/
def Obligations.DisposeEmptiesTheOutput : Prop :=
  ∀ s : State,
    (s.running = true → exec .dispose s = .next s) ∧
    (s.running = false → exec .dispose s = .next { s with
      complete := false
      truncated := false
      outAddr := 0#32
      wr := { s.wr with out := [], ovf := false } }) ∧
    ∀ t, exec .dispose s = .next t → exec .dispose t = .next t

/-- 40_commands.md R118: a write to CMD runs the command its word encodes, and a word that is ILLEGAL leaves only the
error ILLEGAL_CMD: that is the effect of the instruction `wrCmd`, whose well-formed terms carry the illegal words. -/
def Obligations.CmdWriteDispatches : Prop :=
  ∀ (s : State) (w : Word),
    (∀ c, decodeCmd w = some c → serve (.access (writeAt 0x010#12 w)) s = exec c.instr s) ∧
    (WellFormed (.wrCmd w) = true → exec (.wrCmd w) s = .next (withError 7#8 s)) ∧
    (decodeCmd w = none → serve (.access (writeAt 0x010#12 w)) s = exec (.wrCmd w) s)

/-- 60_exceptions.md R313 and R314: each usage error, under the first check that fails, ends the access with no effect
but the error record. -/
def Obligations.UsageErrorsChangeOnlyTheErrorRecord : Prop :=
  ∀ (s : State) (v : Word),
    (s.running = true → exec .start s = .next (withError 1#8 s)) ∧
    (s.running = false → s.width = 0#16 ∨ s.height = 0#16 → exec .start s = .next (withError 2#8 s)) ∧
    (s.running = false → s.width ≠ 0#16 → s.height ≠ 0#16 → s.par.maxPixels < s.width.toNat * s.height.toNat →
      exec .start s = .next (withError 3#8 s)) ∧
    (s.running = false → exec .block s = .next (withError 4#8 s) ∧ exec .tail s = .next (withError 4#8 s)) ∧
    (s.running = true → s.consumed = true → exec .block s = .next (withError 5#8 s)) ∧
    (s.running = true → s.consumed = false → exec .tail s = .next (withError 6#8 s)) ∧
    (legalCommand v = false → exec (.wrCmd v) s = .next (withError 7#8 s)) ∧
    (s.running = true → ∀ i ∈ [Instr.wrWidth v, .wrHeight v, .wrPixAddr v, .wrPixData v],
      exec i s = .next (withError 8#8 s)) ∧
    (s.running = false → s.par.maxPixels ≤ s.pixAddr.toNat → exec (.wrPixData v) s = .next (withError 9#8 s))

/-- 20_memory.md R64: a byte goes to the end of the output RAM while there is room; the first byte dropped sets OVF and
records OUT_OVERFLOW (code 10, by the rule of 60_exceptions.md R312); later ones are dropped silently. -/
def Obligations.AppendOrRecordOverflow : Prop :=
  ∀ (s : State) (b : Byte),
    (s.wr.out.length < s.par.maxOut → outAppend s.par.maxOut b s.wr = { s.wr with out := s.wr.out ++ [b] }) ∧
    (s.par.maxOut ≤ s.wr.out.length → s.wr.ovf = false →
      outAppend s.par.maxOut b s.wr = { (withError 10#8 s).wr with ovf := true }) ∧
    (s.par.maxOut ≤ s.wr.out.length → s.wr.ovf = true → outAppend s.par.maxOut b s.wr = s.wr)

/-! ## Register accesses -/

/-- 40_commands.md R134: the bits a read of STATUS returns. Nothing else changes (R130). -/
def Obligations.StatusReadBits : Prop :=
  ∀ s : State, ∃ v : Word, exec .rdStatus s = .next { s with rdata := v } ∧
    ∀ i, v.getLsbD i =
      ((i == 0 && s.running) || (i == 1 && s.consumed) || (i == 2 && s.complete) || (i == 3 && s.truncated) ||
        (i == 4 && s.wr.ovf) || (i == 5 && !s.running) || (i == 8 && s.wr.err) || (i == 9 && s.wr.errMulti) ||
        (i == 16 && s.doneIp))

/-- 40_commands.md R135: writing 1 to STATUS bit 8 clears the error record, to bit 16 the completion interrupt; the other
bits are ignored, and nothing else changes. -/
def Obligations.StatusWriteClears : Prop :=
  ∀ (s : State) (v : Word),
    exec (.wrStatus v) s = .next { s with
      doneIp := s.doneIp && !v.getLsbD 16
      wr := { s.wr with
        err := s.wr.err && !v.getLsbD 8
        errMulti := s.wr.errMulti && !v.getLsbD 8
        errCode := if v.getLsbD 8 then 0#8 else s.wr.errCode } }

/-- 40_commands.md R136 and R142: a write to IRQ_EN keeps bits 1:0, a write to OUT_ADDR all bits, in every state, and a
read returns the register. Nothing else changes. -/
def Obligations.IrqEnAndOutAddrAreReadWrite : Prop :=
  ∀ (s : State) (v : Word),
    (∃ e : BitVec 2, e.toNat = v.toNat % 4 ∧ exec (.wrIrqEn v) s = .next { s with irqEn := e }) ∧
    (∃ r : Word, r.toNat = s.irqEn.toNat ∧ exec .rdIrqEn s = .next { s with rdata := r }) ∧
    exec (.wrOutAddr v) s = .next { s with outAddr := v } ∧
    exec .rdOutAddr s = .next { s with rdata := s.outAddr }

/-- The interrupt output (60_exceptions.md R318): IRQ is DONE_IP under DONE_IE or ERR under ERR_IE; so after a write of 1
to both enables it is up exactly when something is pending. -/
def Obligations.InterruptOutput : Prop :=
  ∀ s : State,
    (irqOut s = true ↔
      (s.doneIp = true ∧ s.irqEn.getLsbD 0 = true) ∨ (s.wr.err = true ∧ s.irqEn.getLsbD 1 = true)) ∧
    (∀ t, exec (.wrIrqEn 3#32) s = .next t → (irqOut t = true ↔ s.doneIp = true ∨ s.wr.err = true)) ∧
    ∀ t, exec (.wrIrqEn 0#32) s = .next t → irqOut t = false

/-- 40_commands.md R138: WIDTH and HEIGHT keep the low 16 bits written, PIX_ADDR all 32, while idle; during a session the
write is refused with CFG_RUNNING. Reads return the registers. Nothing else changes. -/
def Obligations.SizeAndAddressRegisters : Prop :=
  ∀ (s : State) (v : Word),
    (s.running = true → ∀ i ∈ [Instr.wrWidth v, .wrHeight v, .wrPixAddr v], exec i s = .next (withError 8#8 s)) ∧
    (s.running = false → ∃ h : BitVec 16, h.toNat = v.toNat % 65536 ∧
      exec (.wrWidth v) s = .next { s with width := h } ∧
      exec (.wrHeight v) s = .next { s with height := h } ∧
      exec (.wrPixAddr v) s = .next { s with pixAddr := v }) ∧
    (∃ r : Word, r.toNat = s.width.toNat ∧ exec .rdWidth s = .next { s with rdata := r }) ∧
    (∃ r : Word, r.toNat = s.height.toNat ∧ exec .rdHeight s = .next { s with rdata := r }) ∧
    exec .rdPixAddr s = .next { s with rdata := s.pixAddr }

/-- 40_commands.md R139: a write to PIX_DATA stores one pixel at PIX_ADDR and advances it, every other pixel word reads as
before, and nothing else changes; it is refused during a session and past the pixel RAM. A read returns 0. -/
def Obligations.PixDataStoresOnePixel : Prop :=
  ∀ (s : State) (v : Word),
    (s.running = true → exec (.wrPixData v) s = .next (withError 8#8 s)) ∧
    (s.running = false → s.par.maxPixels ≤ s.pixAddr.toNat → exec (.wrPixData v) s = .next (withError 9#8 s)) ∧
    (s.running = false → s.pixAddr.toNat < s.par.maxPixels →
      ∃ t, exec (.wrPixData v) s = .next t ∧
        t = { s with pix := t.pix, pixAddr := BitVec.ofNat 32 (s.pixAddr.toNat + 1) } ∧
        pixWord t s.pixAddr.toNat = v ∧
        (∀ i, i ≠ s.pixAddr.toNat → pixWord t i = pixWord s i) ∧
        (s.pix.wf = true → t.pix.wf = true)) ∧
    exec .rdPixData s = .next { s with rdata := 0#32 }

/-- 40_commands.md R144: a read of OUT_DATA returns the byte at OUT_ADDR and advances OUT_ADDR; during a session, or past
the end of the output, it returns 0 and OUT_ADDR stays. Nothing else changes. -/
def Obligations.OutDataReadsOneByte : Prop :=
  ∀ s : State,
    (s.running = true ∨ s.wr.out.length ≤ s.outAddr.toNat → exec .rdOutData s = .next { s with rdata := 0#32 }) ∧
    (s.running = false → ∀ (h : s.outAddr.toNat < s.wr.out.length),
      ∃ r : Word, r.toNat = (s.wr.out[s.outAddr.toNat]).toNat ∧
        exec .rdOutData s = .next { s with rdata := r, outAddr := BitVec.ofNat 32 (s.outAddr.toNat + 1) })

/-- 40_commands.md R143: while idle, setting OUT_ADDR to 0 and reading OUT_DATA as often as the output is long returns the
output, byte for byte, changes nothing but OUT_ADDR and the value read, and a second pass returns the same. -/
def Obligations.ReadoutReturnsTheOutput : Prop :=
  ∀ s : State, s.running = false → s.wr.out.length < 2 ^ 32 →
    let n := s.wr.out.length
    let u := { s with outAddr := 0#32 }
    exec (.wrOutAddr 0#32) s = .next u ∧
    (readBytes n u).1.map BitVec.toNat = s.wr.out.map BitVec.toNat ∧
    (∃ r, (readBytes n u).2 = { s with rdata := r, outAddr := BitVec.ofNat 32 n }) ∧
    (readBytes n { (readBytes n u).2 with outAddr := 0#32 }).1 = (readBytes n u).1

/-- The constants and the error code (40_commands.md R132, R133, R139; 10_state.md R44, R47): a read returns the value and
changes nothing else (R130). -/
def Obligations.ConstantAndErrorReads : Prop :=
  ∀ s : State,
    exec .rdId s = .next { s with rdata := 0x4A504547#32 } ∧
    (∃ r : Word, (s.par.wf = true → r.toNat = s.par.maxPixels) ∧ exec .rdCapPix s = .next { s with rdata := r }) ∧
    (∃ r : Word, (s.par.wf = true → r.toNat = s.par.maxOut) ∧ exec .rdCapOut s = .next { s with rdata := r }) ∧
    exec .rdCmd s = .next { s with rdata := 0#32 } ∧
    exec .rdPixData s = .next { s with rdata := 0#32 } ∧
    ∃ r : Word, r.toNat = s.wr.errCode.toNat ∧ exec .rdErrCode s = .next { s with rdata := r }

/-- The progress registers (40_commands.md R140, R141): a read of CUR_X, CUR_Y, PIX_DONE or PIX_TOTAL returns it in every
state, a read of OUT_LEN the length of the output while idle and 0 during a session. Nothing else changes (R130). -/
def Obligations.ProgressReads : Prop :=
  ∀ s : State,
    exec .rdCurX s = .next { s with rdata := s.curX } ∧
    exec .rdCurY s = .next { s with rdata := s.curY } ∧
    exec .rdPixDone s = .next { s with rdata := s.pixDone } ∧
    exec .rdPixTotal s = .next { s with rdata := s.pixTotal } ∧
    ∃ r : Word, exec .rdOutLen s = .next { s with rdata := r } ∧
      (s.running = true → r = 0#32) ∧ (s.running = false → s.wr.out.length < 2 ^ 32 → r.toNat = s.wr.out.length)

/-- The carried state and the tables (40_commands.md R137, R145, R146, R147): QUALITY, the predictors in two's complement,
the accumulator, and the table windows, in every state. Nothing else changes (R130). -/
def Obligations.CarriedStateAndTableReads : Prop :=
  ∀ (s : State) (k : BitVec 6),
    (∃ r : Word, r.toNat = s.qAct.toNat + 2 ^ 8 * s.qPend.toNat + 2 ^ 16 * s.qPending.toNat ∧
      exec .rdQuality s = .next { s with rdata := r }) ∧
    (∃ r : Word, (r.toNat : Int) = s.predY % 2 ^ 32 ∧ exec .rdPredY s = .next { s with rdata := r }) ∧
    (∃ r : Word, (r.toNat : Int) = s.predCb % 2 ^ 32 ∧ exec .rdPredCb s = .next { s with rdata := r }) ∧
    (∃ r : Word, (r.toNat : Int) = s.predCr % 2 ^ 32 ∧ exec .rdPredCr s = .next { s with rdata := r }) ∧
    (∃ r : Word, r.toNat = s.wr.byteNew.toNat + 2 ^ 8 * s.wr.bytePos.toNat ∧
      exec .rdBitacc s = .next { s with rdata := r }) ∧
    (∃ r : Word, r.toNat = (s.qtY[k.toNat]'k.isLt).toNat ∧ exec (.rdQtY k) s = .next { s with rdata := r }) ∧
    ∃ r : Word, r.toNat = (s.qtC[k.toNat]'k.isLt).toNat ∧ exec (.rdQtC k) s = .next { s with rdata := r }

/-! ## The datapath -/

/-- 00_scope.md R9: a finite sum, difference, product or quotient of finite values is a value nearest to the exact result,
and of two nearest values the one whose last bit is 0. Values are in units of 2^-1074; products and quotients are
compared after clearing the denominator. -/
def Obligations.RoundingIsToNearest : Prop :=
  ∀ x y z : F64, f64Finite x = true → f64Finite y = true → f64Finite z = true →
    let u := f64Units
    let one : Int := f64One
    let nearest (r : F64) (err : F64 → Nat) : Prop :=
      f64Finite r = true → err r ≤ err z ∧ (err r = err z → u z ≠ u r → r.getLsbD 0 = false)
    nearest (fadd x y) (fun r => (u x + u y - u r).natAbs) ∧
    nearest (fsub x y) (fun r => (u x - u y - u r).natAbs) ∧
    nearest (fmul x y) (fun r => (u x * u y - u r * one).natAbs) ∧
    (u y ≠ 0 → nearest (fdiv x y) (fun r => (u x * one - u r * u y).natAbs))

/-- A decimal literal is the binary64 value nearest to it, and an integer below 2^53 converts exactly (00_scope.md R9). -/
def Obligations.LiteralsAreNearest : Prop :=
  (∀ (num den : Nat) (z : F64), 0 < den → f64Finite (f64Lit num den) = true → f64Finite z = true →
    ((num * f64One : Int) - f64Units (f64Lit num den) * den).natAbs ≤ ((num * f64One : Int) - f64Units z * den).natAbs) ∧
  ∀ n : Nat, n < 2 ^ 53 → f64Finite (f64OfNat n) = true ∧ f64Units (f64OfNat n) = n * f64One

/-- `RoundHalfAway(p) = sign(p) * floor(|p| + 1/2)`, exactly, on the value p (42_quant_zigzag.md R197). -/
def Obligations.RoundsHalfAwayFromZero : Prop :=
  ∀ p : F64, f64Finite p = true →
    roundHalfAway p = (f64Units p).sign * ⌊(|(f64Units p : ℚ)| / (f64One : ℚ)) + 1 / 2⌋ ∧
      roundHalfAway (fneg p) = -roundHalfAway p

/-- The scaling entries lie in (0, 2) for every quality and both tables (42_quant_zigzag.md R196, R197). -/
def Obligations.ScalingEntriesLieBetween0And2 : Prop :=
  ∀ (base : List Nat) (q i : Nat), base = yqt ∨ base = cqt → 1 ≤ q → q ≤ 100 → i < 64 →
    let f := pick (scaleTable (quantTable base q)) i 0#64
    f64Finite f = true ∧ 0 < f64Units f ∧ f64Units f < 2 * f64One

/-- The samples of any pixel (41_color_fdct.md R163, R165): finite, Y in -128..127 and Cb, Cr in -127.5..127.5, up to
2^-40, Y never below -128, and the alpha byte is ignored. -/
def Obligations.SamplesLieInRange : Prop :=
  ∀ (p : Word) (alpha : Byte),
    (f64Finite (lumaOf p) = true ∧ f64Finite (cbOf p) = true ∧ f64Finite (crOf p) = true) ∧
    (-128 * f64One ≤ f64Units (lumaOf p) ∧ f64Units (lumaOf p) ≤ 127 * f64One + f64One / 2 ^ 40) ∧
    (2 * |f64Units (cbOf p)| ≤ 255 * f64One + f64One / 2 ^ 40 ∧
      2 * |f64Units (crOf p)| ≤ 255 * f64One + f64One / 2 ^ 40) ∧
    (lumaOf (alpha ++ p.extractLsb' 0 24) = lumaOf p ∧ cbOf (alpha ++ p.extractLsb' 0 24) = cbOf p ∧
      crOf (alpha ++ p.extractLsb' 0 24) = crOf p)

/-- 41_color_fdct.md R161 and R162: the sample at row r and column c of the block comes from the pixel whose coordinates
are the cursor's plus c and r, each clamped to the image on its own; the index is always below WIDTH*HEIGHT, so the fetch
meets no fault when the image fits the pixel RAM. -/
def Obligations.EdgeClampStaysInTheImage : Prop :=
  ∀ s : State, s.curX.toNat < s.width.toNat → s.curY.toNat < s.height.toNat →
    (∀ r c, r < 8 → c < 8 →
      sampleIndex s (8 * r + c) =
        min (s.curY.toNat + r) (s.height.toNat - 1) * s.width.toNat + min (s.curX.toNat + c) (s.width.toNat - 1) ∧
      sampleIndex s (8 * r + c) < s.width.toNat * s.height.toNat) ∧
    (s.width.toNat * s.height.toNat ≤ s.par.maxPixels →
      ∃ words, fetchWords s = .ok words ∧
        ∀ i, i < 64 → pick words i 0#32 = pixWord s (sampleIndex s i))

/-- The forward DCT of a constant block: the DC entry is exactly 64 times the sample and every other entry is a zero, for
every finite sample small enough not to overflow (41_color_fdct.md R166, R167; 95_test_vectors.md V-D1). -/
def Obligations.ConstantBlockHasOnlyDc : Prop :=
  ∀ x : F64, f64Exp x ≤ 2040 →
    let d := forwardDct (Vector.replicate 64 x)
    f64Finite (pick d 0 0#64) = true ∧ f64Units (pick d 0 0#64) = 64 * f64Units x ∧
      ∀ i, 0 < i → i < 64 → f64Finite (pick d i 0#64) = true ∧ f64Units (pick d i 0#64) = 0

/-- 42_quant_zigzag.md R198: the coefficient of natural index i goes to zigzag position ZZ[i], and every position receives
one. -/
def Obligations.ReorderIsTheZigzag : Prop :=
  (∀ (coef : Vector Int 64) (i : Nat), i < 64 → pick (reorder coef) (entry zz i) 0 = pick coef i 0) ∧
  ∀ k, k < 64 → entry unzz k < 64 ∧ entry zz (entry unzz k) = k ∧ entry zz k < 64 ∧ entry unzz (entry zz k) = k

/-- Every Huffman table (43_entropy.md R224 to R227): codes of 1 to 16 bits that fit their length, no code a beginning of
another (no two different codes begin one bit string), a code for exactly the values listed, and the alphabets of R222. -/
def Obligations.HuffmanCodesArePrefixFree : Prop :=
  ∀ t ∈ [dcLuma, dcChroma, acLuma, acChroma],
    (∀ c ∈ buildTable t, 1 ≤ c.len ∧ c.len ≤ 16 ∧ c.code < 2 ^ c.len) ∧
    (∀ c ∈ buildTable t, ∀ d ∈ buildTable t, ∀ xs ys : List Bool,
      msbBits c.len c.code ++ xs = msbBits d.len d.code ++ ys → c = d) ∧
    (∀ sym : Nat, (lookupCode (buildTable t) sym).isSome = true ↔ sym ∈ t.vals) ∧
    (∀ sym : Nat, t = dcLuma ∨ t = dcChroma → (sym ∈ t.vals ↔ sym ≤ 11)) ∧
    ∀ sym : Nat, t = acLuma ∨ t = acChroma →
      (sym ∈ t.vals ↔ sym = 0x00 ∨ sym = 0xF0 ∨ (sym / 16 ≤ 15 ∧ 1 ≤ sym % 16 ∧ sym % 16 ≤ 10))

/-- 43_entropy.md R220 and R221: the category is the bit length of the magnitude; the magnitude bits fit it, lead with 1
for a positive value and with 0 for a negative one, and with the category they determine the value. -/
def Obligations.MagnitudeBitsDetermineTheValue : Prop :=
  category 0 = 0 ∧
  (∀ v : Int, v ≠ 0 →
    1 ≤ category v ∧ 2 ^ (category v - 1) ≤ v.natAbs ∧ v.natAbs < 2 ^ category v ∧ magnitude v < 2 ^ category v ∧
    (0 < v → (magnitude v : Int) = v) ∧ (v < 0 → (magnitude v : Int) = v + 2 ^ category v - 1) ∧
    (magnitude v).testBit (category v - 1) = decide (0 < v)) ∧
  ∀ u v : Int, u ≠ 0 → v ≠ 0 → category u = category v → magnitude u = magnitude v → u = v

/-- 44_bitwriter.md R261 and R262: with room, PutBits sends the n low bits, most significant first, behind the pending
ones; each completed byte goes out with its stuffing and the rest stays pending; nothing else changes. Arguments outside
the guard are a fault (60_exceptions.md R316). -/
def Obligations.PutBitsSendsTheBits : Prop :=
  ∀ (cap n v : Nat) (w : Writer),
    (n ≤ 16 → v < 2 ^ n → w.out.length + 4 ≤ cap → accumulatorClear w →
      ∃ (w' : Writer) (bytes : List Byte),
        putBits cap n v w = .ok w' ∧
        w' = { w with out := w.out ++ bytes.flatMap stuffByte, byteNew := w'.byteNew, bytePos := w'.bytePos } ∧
        pendingBits w ++ msbBits n v = (bytes.flatMap fun b => msbBits 8 b.toNat) ++ pendingBits w' ∧
        accumulatorClear w') ∧
    (¬(n ≤ 16 ∧ v < 2 ^ n) → putBits cap n v w = .error .putBitsArguments)

/-- Coding a data unit loses nothing (43_entropy.md R222, R229, R230; 90_conflicts.md C1): the bits sent are those of one
DC token, the difference from the predictor, and of AC tokens that stand for the 63 AC values, all zeros after the last
token; EOB ends them exactly when the value at position 63 is zero, and no ZRL stands before EOB. -/
def Obligations.DataUnitIsCodedLosslessly : Prop :=
  ∀ (cap : Nat) (dc ac : HuffSpec) (pred : Int) (du : Vector Int 64) (w : Writer),
    (dc = dcLuma ∧ ac = acLuma) ∨ (dc = dcChroma ∧ ac = acChroma) → codable pred du →
    let diff := pick du 0 0 - pred
    ∃ (toks : List Token) (w1 w2 : Writer) (n : Nat),
      sendTokens cap (buildTable dc) [(category diff, diff)] w = .ok w1 ∧
      sendTokens cap (buildTable ac) (toks ++ if pick du 63 0 = 0 then [(0x00, 0)] else []) w1 = .ok w2 ∧
      codeUnit cap dc ac pred du w = .ok w2 ∧
      (∀ k ∈ toks, k.1 = 0xF0 ∧ k.2 = 0 ∨ k.2 ≠ 0 ∧ k.1 / 16 ≤ 15 ∧ k.1 % 16 = category k.2) ∧
      expandTokens toks ++ List.replicate n 0 = du.toList.drop 1 ∧
      (toks = [] ∨ ∃ ts k, toks = ts ++ [k] ∧ k.2 ≠ 0)

/-- What a pixel word reads (20_memory.md R62, 93_implementation_defined.md U1): a word the host has written since reset
reads as written, and one it has not, such as every word after a reset, reads a value the spec leaves unspecified. That
this value is Config.pixFree of the count of resets and the index is the model's choice (log entry 4, DESIGN CHOICE); the
statement holds for every Config.pixFree. -/
def Obligations.UnwrittenPixelsReadAFreeValue : Prop :=
  ∀ s : State,
    (∀ i v, s.pix.read i = some v → pixWord s i = v) ∧
    (∀ i, s.pix.read i = none → pixWord s i = Config.pixFree s.epoch i) ∧
    ∃ t, serve .reset s = .next t ∧ ∀ i, pixWord t i = Config.pixFree (s.epoch + 1) i
end

