-- ==== Sys2Proof/Laws/Buffer.lean ====
section
/-! SUPPORT. Buffers that are tabulated and read by index; and parts of a command one after the other. -/

namespace Sys2Proof.Machine

@[simp] theorem toList_tabulate {α : Type} (n : Nat) (f : Nat → α) : (tabulate n f).toList = (List.range n).map f := rfl

@[simp] theorem pick_tabulate {α : Type} {n i : Nat} (h : i < n) (f : Nat → α) (d : α) :
    pick (tabulate n f) i d = f i := by
  simp [pick, h]

theorem pick_eq_getElem {α : Type} {n i : Nat} (v : Vector α n) (h : i < n) (d : α) : pick v i d = v[i] := by
  simp [pick, List.getD, h]

/-- Two buffers with equal entries are equal. -/
theorem buffer_ext {α : Type} {n : Nat} {v w : Vector α n} (d : α) (h : ∀ i, i < n → pick v i d = pick w i d) :
    v = w := by
  apply Vector.ext
  intro i hi
  rw [← pick_eq_getElem v hi d, ← pick_eq_getElem w hi d, h i hi]

/-! ## Parts of a command -/

@[simp] theorem andThen_ok {α β : Type} (a : α) (f : α → Except Fault β) : andThen (.ok a) f = f a := rfl

@[simp] theorem andThen_error {α β : Type} (e : Fault) (f : α → Except Fault β) : andThen (.error e) f = .error e := rfl

/-- Two parts succeed when the first does and the second does on its result. -/
theorem andThen_eq_ok {α β : Type} {x : Except Fault α} {f : α → Except Fault β} {b : β} :
    andThen x f = .ok b ↔ ∃ a, x = .ok a ∧ f a = .ok b := by
  cases x with
  | ok a => simp
  | error e => simp

end Sys2Proof.Machine
end

