-- ==== Sys2Proof/Laws/State.lean ====
section
/-! SUPPORT. One lemma per field per update of the state. -/

namespace Sys2Proof.Machine

/-! ## answer -/

@[simp] theorem answer_par (v : Word) (s : State) : (answer v s).par = s.par := rfl
@[simp] theorem answer_host (v : Word) (s : State) : (answer v s).host = s.host := rfl
@[simp] theorem answer_rdata (v : Word) (s : State) : (answer v s).rdata = v := rfl
@[simp] theorem answer_epoch (v : Word) (s : State) : (answer v s).epoch = s.epoch := rfl
@[simp] theorem answer_running (v : Word) (s : State) : (answer v s).running = s.running := rfl
@[simp] theorem answer_consumed (v : Word) (s : State) : (answer v s).consumed = s.consumed := rfl
@[simp] theorem answer_complete (v : Word) (s : State) : (answer v s).complete = s.complete := rfl
@[simp] theorem answer_truncated (v : Word) (s : State) : (answer v s).truncated = s.truncated := rfl
@[simp] theorem answer_curX (v : Word) (s : State) : (answer v s).curX = s.curX := rfl
@[simp] theorem answer_curY (v : Word) (s : State) : (answer v s).curY = s.curY := rfl
@[simp] theorem answer_qAct (v : Word) (s : State) : (answer v s).qAct = s.qAct := rfl
@[simp] theorem answer_qPend (v : Word) (s : State) : (answer v s).qPend = s.qPend := rfl
@[simp] theorem answer_qPending (v : Word) (s : State) : (answer v s).qPending = s.qPending := rfl
@[simp] theorem answer_qtY (v : Word) (s : State) : (answer v s).qtY = s.qtY := rfl
@[simp] theorem answer_qtC (v : Word) (s : State) : (answer v s).qtC = s.qtC := rfl
@[simp] theorem answer_fdY (v : Word) (s : State) : (answer v s).fdY = s.fdY := rfl
@[simp] theorem answer_fdC (v : Word) (s : State) : (answer v s).fdC = s.fdC := rfl
@[simp] theorem answer_width (v : Word) (s : State) : (answer v s).width = s.width := rfl
@[simp] theorem answer_height (v : Word) (s : State) : (answer v s).height = s.height := rfl
@[simp] theorem answer_pix (v : Word) (s : State) : (answer v s).pix = s.pix := rfl
@[simp] theorem answer_pixAddr (v : Word) (s : State) : (answer v s).pixAddr = s.pixAddr := rfl
@[simp] theorem answer_pixDone (v : Word) (s : State) : (answer v s).pixDone = s.pixDone := rfl
@[simp] theorem answer_pixTotal (v : Word) (s : State) : (answer v s).pixTotal = s.pixTotal := rfl
@[simp] theorem answer_predY (v : Word) (s : State) : (answer v s).predY = s.predY := rfl
@[simp] theorem answer_predCb (v : Word) (s : State) : (answer v s).predCb = s.predCb := rfl
@[simp] theorem answer_predCr (v : Word) (s : State) : (answer v s).predCr = s.predCr := rfl
@[simp] theorem answer_wr (v : Word) (s : State) : (answer v s).wr = s.wr := rfl
@[simp] theorem answer_outAddr (v : Word) (s : State) : (answer v s).outAddr = s.outAddr := rfl
@[simp] theorem answer_doneIp (v : Word) (s : State) : (answer v s).doneIp = s.doneIp := rfl
@[simp] theorem answer_irqEn (v : Word) (s : State) : (answer v s).irqEn = s.irqEn := rfl

/-! ## refuseWith -/

@[simp] theorem refuseWith_par (c : ErrCode) (s : State) : (refuseWith c s).par = s.par := rfl
@[simp] theorem refuseWith_host (c : ErrCode) (s : State) : (refuseWith c s).host = s.host := rfl
@[simp] theorem refuseWith_rdata (c : ErrCode) (s : State) : (refuseWith c s).rdata = s.rdata := rfl
@[simp] theorem refuseWith_epoch (c : ErrCode) (s : State) : (refuseWith c s).epoch = s.epoch := rfl
@[simp] theorem refuseWith_running (c : ErrCode) (s : State) : (refuseWith c s).running = s.running := rfl
@[simp] theorem refuseWith_consumed (c : ErrCode) (s : State) : (refuseWith c s).consumed = s.consumed := rfl
@[simp] theorem refuseWith_complete (c : ErrCode) (s : State) : (refuseWith c s).complete = s.complete := rfl
@[simp] theorem refuseWith_truncated (c : ErrCode) (s : State) : (refuseWith c s).truncated = s.truncated := rfl
@[simp] theorem refuseWith_curX (c : ErrCode) (s : State) : (refuseWith c s).curX = s.curX := rfl
@[simp] theorem refuseWith_curY (c : ErrCode) (s : State) : (refuseWith c s).curY = s.curY := rfl
@[simp] theorem refuseWith_qAct (c : ErrCode) (s : State) : (refuseWith c s).qAct = s.qAct := rfl
@[simp] theorem refuseWith_qPend (c : ErrCode) (s : State) : (refuseWith c s).qPend = s.qPend := rfl
@[simp] theorem refuseWith_qPending (c : ErrCode) (s : State) : (refuseWith c s).qPending = s.qPending := rfl
@[simp] theorem refuseWith_qtY (c : ErrCode) (s : State) : (refuseWith c s).qtY = s.qtY := rfl
@[simp] theorem refuseWith_qtC (c : ErrCode) (s : State) : (refuseWith c s).qtC = s.qtC := rfl
@[simp] theorem refuseWith_fdY (c : ErrCode) (s : State) : (refuseWith c s).fdY = s.fdY := rfl
@[simp] theorem refuseWith_fdC (c : ErrCode) (s : State) : (refuseWith c s).fdC = s.fdC := rfl
@[simp] theorem refuseWith_width (c : ErrCode) (s : State) : (refuseWith c s).width = s.width := rfl
@[simp] theorem refuseWith_height (c : ErrCode) (s : State) : (refuseWith c s).height = s.height := rfl
@[simp] theorem refuseWith_pix (c : ErrCode) (s : State) : (refuseWith c s).pix = s.pix := rfl
@[simp] theorem refuseWith_pixAddr (c : ErrCode) (s : State) : (refuseWith c s).pixAddr = s.pixAddr := rfl
@[simp] theorem refuseWith_pixDone (c : ErrCode) (s : State) : (refuseWith c s).pixDone = s.pixDone := rfl
@[simp] theorem refuseWith_pixTotal (c : ErrCode) (s : State) : (refuseWith c s).pixTotal = s.pixTotal := rfl
@[simp] theorem refuseWith_predY (c : ErrCode) (s : State) : (refuseWith c s).predY = s.predY := rfl
@[simp] theorem refuseWith_predCb (c : ErrCode) (s : State) : (refuseWith c s).predCb = s.predCb := rfl
@[simp] theorem refuseWith_predCr (c : ErrCode) (s : State) : (refuseWith c s).predCr = s.predCr := rfl
@[simp] theorem refuseWith_wr (c : ErrCode) (s : State) : (refuseWith c s).wr = recordError c s.wr := rfl
@[simp] theorem refuseWith_outAddr (c : ErrCode) (s : State) : (refuseWith c s).outAddr = s.outAddr := rfl
@[simp] theorem refuseWith_doneIp (c : ErrCode) (s : State) : (refuseWith c s).doneIp = s.doneIp := rfl
@[simp] theorem refuseWith_irqEn (c : ErrCode) (s : State) : (refuseWith c s).irqEn = s.irqEn := rfl

/-! ## clearErrors -/

@[simp] theorem clearErrors_par (s : State) : (clearErrors s).par = s.par := rfl
@[simp] theorem clearErrors_host (s : State) : (clearErrors s).host = s.host := rfl
@[simp] theorem clearErrors_rdata (s : State) : (clearErrors s).rdata = s.rdata := rfl
@[simp] theorem clearErrors_epoch (s : State) : (clearErrors s).epoch = s.epoch := rfl
@[simp] theorem clearErrors_running (s : State) : (clearErrors s).running = s.running := rfl
@[simp] theorem clearErrors_consumed (s : State) : (clearErrors s).consumed = s.consumed := rfl
@[simp] theorem clearErrors_complete (s : State) : (clearErrors s).complete = s.complete := rfl
@[simp] theorem clearErrors_truncated (s : State) : (clearErrors s).truncated = s.truncated := rfl
@[simp] theorem clearErrors_curX (s : State) : (clearErrors s).curX = s.curX := rfl
@[simp] theorem clearErrors_curY (s : State) : (clearErrors s).curY = s.curY := rfl
@[simp] theorem clearErrors_qAct (s : State) : (clearErrors s).qAct = s.qAct := rfl
@[simp] theorem clearErrors_qPend (s : State) : (clearErrors s).qPend = s.qPend := rfl
@[simp] theorem clearErrors_qPending (s : State) : (clearErrors s).qPending = s.qPending := rfl
@[simp] theorem clearErrors_qtY (s : State) : (clearErrors s).qtY = s.qtY := rfl
@[simp] theorem clearErrors_qtC (s : State) : (clearErrors s).qtC = s.qtC := rfl
@[simp] theorem clearErrors_fdY (s : State) : (clearErrors s).fdY = s.fdY := rfl
@[simp] theorem clearErrors_fdC (s : State) : (clearErrors s).fdC = s.fdC := rfl
@[simp] theorem clearErrors_width (s : State) : (clearErrors s).width = s.width := rfl
@[simp] theorem clearErrors_height (s : State) : (clearErrors s).height = s.height := rfl
@[simp] theorem clearErrors_pix (s : State) : (clearErrors s).pix = s.pix := rfl
@[simp] theorem clearErrors_pixAddr (s : State) : (clearErrors s).pixAddr = s.pixAddr := rfl
@[simp] theorem clearErrors_pixDone (s : State) : (clearErrors s).pixDone = s.pixDone := rfl
@[simp] theorem clearErrors_pixTotal (s : State) : (clearErrors s).pixTotal = s.pixTotal := rfl
@[simp] theorem clearErrors_predY (s : State) : (clearErrors s).predY = s.predY := rfl
@[simp] theorem clearErrors_predCb (s : State) : (clearErrors s).predCb = s.predCb := rfl
@[simp] theorem clearErrors_predCr (s : State) : (clearErrors s).predCr = s.predCr := rfl
@[simp] theorem clearErrors_wr (s : State) : (clearErrors s).wr = { s.wr with err := false, errMulti := false, errCode := 0#8 } := rfl
@[simp] theorem clearErrors_outAddr (s : State) : (clearErrors s).outAddr = s.outAddr := rfl
@[simp] theorem clearErrors_doneIp (s : State) : (clearErrors s).doneIp = s.doneIp := rfl
@[simp] theorem clearErrors_irqEn (s : State) : (clearErrors s).irqEn = s.irqEn := rfl

/-! ## pixStore -/

@[simp] theorem pixStore_par (i : Nat) (v : Word) (s : State) : (pixStore i v s).par = s.par := rfl
@[simp] theorem pixStore_host (i : Nat) (v : Word) (s : State) : (pixStore i v s).host = s.host := rfl
@[simp] theorem pixStore_rdata (i : Nat) (v : Word) (s : State) : (pixStore i v s).rdata = s.rdata := rfl
@[simp] theorem pixStore_epoch (i : Nat) (v : Word) (s : State) : (pixStore i v s).epoch = s.epoch := rfl
@[simp] theorem pixStore_running (i : Nat) (v : Word) (s : State) : (pixStore i v s).running = s.running := rfl
@[simp] theorem pixStore_consumed (i : Nat) (v : Word) (s : State) : (pixStore i v s).consumed = s.consumed := rfl
@[simp] theorem pixStore_complete (i : Nat) (v : Word) (s : State) : (pixStore i v s).complete = s.complete := rfl
@[simp] theorem pixStore_truncated (i : Nat) (v : Word) (s : State) : (pixStore i v s).truncated = s.truncated := rfl
@[simp] theorem pixStore_curX (i : Nat) (v : Word) (s : State) : (pixStore i v s).curX = s.curX := rfl
@[simp] theorem pixStore_curY (i : Nat) (v : Word) (s : State) : (pixStore i v s).curY = s.curY := rfl
@[simp] theorem pixStore_qAct (i : Nat) (v : Word) (s : State) : (pixStore i v s).qAct = s.qAct := rfl
@[simp] theorem pixStore_qPend (i : Nat) (v : Word) (s : State) : (pixStore i v s).qPend = s.qPend := rfl
@[simp] theorem pixStore_qPending (i : Nat) (v : Word) (s : State) : (pixStore i v s).qPending = s.qPending := rfl
@[simp] theorem pixStore_qtY (i : Nat) (v : Word) (s : State) : (pixStore i v s).qtY = s.qtY := rfl
@[simp] theorem pixStore_qtC (i : Nat) (v : Word) (s : State) : (pixStore i v s).qtC = s.qtC := rfl
@[simp] theorem pixStore_fdY (i : Nat) (v : Word) (s : State) : (pixStore i v s).fdY = s.fdY := rfl
@[simp] theorem pixStore_fdC (i : Nat) (v : Word) (s : State) : (pixStore i v s).fdC = s.fdC := rfl
@[simp] theorem pixStore_width (i : Nat) (v : Word) (s : State) : (pixStore i v s).width = s.width := rfl
@[simp] theorem pixStore_height (i : Nat) (v : Word) (s : State) : (pixStore i v s).height = s.height := rfl
@[simp] theorem pixStore_pix (i : Nat) (v : Word) (s : State) : (pixStore i v s).pix = s.pix.write i v := rfl
@[simp] theorem pixStore_pixAddr (i : Nat) (v : Word) (s : State) : (pixStore i v s).pixAddr = s.pixAddr := rfl
@[simp] theorem pixStore_pixDone (i : Nat) (v : Word) (s : State) : (pixStore i v s).pixDone = s.pixDone := rfl
@[simp] theorem pixStore_pixTotal (i : Nat) (v : Word) (s : State) : (pixStore i v s).pixTotal = s.pixTotal := rfl
@[simp] theorem pixStore_predY (i : Nat) (v : Word) (s : State) : (pixStore i v s).predY = s.predY := rfl
@[simp] theorem pixStore_predCb (i : Nat) (v : Word) (s : State) : (pixStore i v s).predCb = s.predCb := rfl
@[simp] theorem pixStore_predCr (i : Nat) (v : Word) (s : State) : (pixStore i v s).predCr = s.predCr := rfl
@[simp] theorem pixStore_wr (i : Nat) (v : Word) (s : State) : (pixStore i v s).wr = s.wr := rfl
@[simp] theorem pixStore_outAddr (i : Nat) (v : Word) (s : State) : (pixStore i v s).outAddr = s.outAddr := rfl
@[simp] theorem pixStore_doneIp (i : Nat) (v : Word) (s : State) : (pixStore i v s).doneIp = s.doneIp := rfl
@[simp] theorem pixStore_irqEn (i : Nat) (v : Word) (s : State) : (pixStore i v s).irqEn = s.irqEn := rfl

/-! ## place -/

@[simp] theorem place_par (e : Event) (s : State) : (place e s).par = s.par := rfl
@[simp] theorem place_host (e : Event) (s : State) : (place e s).host = e :: s.host := rfl
@[simp] theorem place_rdata (e : Event) (s : State) : (place e s).rdata = s.rdata := rfl
@[simp] theorem place_epoch (e : Event) (s : State) : (place e s).epoch = s.epoch := rfl
@[simp] theorem place_running (e : Event) (s : State) : (place e s).running = s.running := rfl
@[simp] theorem place_consumed (e : Event) (s : State) : (place e s).consumed = s.consumed := rfl
@[simp] theorem place_complete (e : Event) (s : State) : (place e s).complete = s.complete := rfl
@[simp] theorem place_truncated (e : Event) (s : State) : (place e s).truncated = s.truncated := rfl
@[simp] theorem place_curX (e : Event) (s : State) : (place e s).curX = s.curX := rfl
@[simp] theorem place_curY (e : Event) (s : State) : (place e s).curY = s.curY := rfl
@[simp] theorem place_qAct (e : Event) (s : State) : (place e s).qAct = s.qAct := rfl
@[simp] theorem place_qPend (e : Event) (s : State) : (place e s).qPend = s.qPend := rfl
@[simp] theorem place_qPending (e : Event) (s : State) : (place e s).qPending = s.qPending := rfl
@[simp] theorem place_qtY (e : Event) (s : State) : (place e s).qtY = s.qtY := rfl
@[simp] theorem place_qtC (e : Event) (s : State) : (place e s).qtC = s.qtC := rfl
@[simp] theorem place_fdY (e : Event) (s : State) : (place e s).fdY = s.fdY := rfl
@[simp] theorem place_fdC (e : Event) (s : State) : (place e s).fdC = s.fdC := rfl
@[simp] theorem place_width (e : Event) (s : State) : (place e s).width = s.width := rfl
@[simp] theorem place_height (e : Event) (s : State) : (place e s).height = s.height := rfl
@[simp] theorem place_pix (e : Event) (s : State) : (place e s).pix = s.pix := rfl
@[simp] theorem place_pixAddr (e : Event) (s : State) : (place e s).pixAddr = s.pixAddr := rfl
@[simp] theorem place_pixDone (e : Event) (s : State) : (place e s).pixDone = s.pixDone := rfl
@[simp] theorem place_pixTotal (e : Event) (s : State) : (place e s).pixTotal = s.pixTotal := rfl
@[simp] theorem place_predY (e : Event) (s : State) : (place e s).predY = s.predY := rfl
@[simp] theorem place_predCb (e : Event) (s : State) : (place e s).predCb = s.predCb := rfl
@[simp] theorem place_predCr (e : Event) (s : State) : (place e s).predCr = s.predCr := rfl
@[simp] theorem place_wr (e : Event) (s : State) : (place e s).wr = s.wr := rfl
@[simp] theorem place_outAddr (e : Event) (s : State) : (place e s).outAddr = s.outAddr := rfl
@[simp] theorem place_doneIp (e : Event) (s : State) : (place e s).doneIp = s.doneIp := rfl
@[simp] theorem place_irqEn (e : Event) (s : State) : (place e s).irqEn = s.irqEn := rfl

/-! ## applyQuality -/

@[simp] theorem applyQuality_par (q : Nat) (s : State) : (applyQuality q s).par = s.par := rfl
@[simp] theorem applyQuality_host (q : Nat) (s : State) : (applyQuality q s).host = s.host := rfl
@[simp] theorem applyQuality_rdata (q : Nat) (s : State) : (applyQuality q s).rdata = s.rdata := rfl
@[simp] theorem applyQuality_epoch (q : Nat) (s : State) : (applyQuality q s).epoch = s.epoch := rfl
@[simp] theorem applyQuality_running (q : Nat) (s : State) : (applyQuality q s).running = s.running := rfl
@[simp] theorem applyQuality_consumed (q : Nat) (s : State) : (applyQuality q s).consumed = s.consumed := rfl
@[simp] theorem applyQuality_complete (q : Nat) (s : State) : (applyQuality q s).complete = s.complete := rfl
@[simp] theorem applyQuality_truncated (q : Nat) (s : State) : (applyQuality q s).truncated = s.truncated := rfl
@[simp] theorem applyQuality_curX (q : Nat) (s : State) : (applyQuality q s).curX = s.curX := rfl
@[simp] theorem applyQuality_curY (q : Nat) (s : State) : (applyQuality q s).curY = s.curY := rfl
@[simp] theorem applyQuality_qAct (q : Nat) (s : State) : (applyQuality q s).qAct = s.qAct := rfl
@[simp] theorem applyQuality_qPend (q : Nat) (s : State) : (applyQuality q s).qPend = s.qPend := rfl
@[simp] theorem applyQuality_qPending (q : Nat) (s : State) : (applyQuality q s).qPending = s.qPending := rfl
@[simp] theorem applyQuality_qtY (q : Nat) (s : State) : (applyQuality q s).qtY = quantTable yqt q := rfl
@[simp] theorem applyQuality_qtC (q : Nat) (s : State) : (applyQuality q s).qtC = quantTable cqt q := rfl
@[simp] theorem applyQuality_fdY (q : Nat) (s : State) : (applyQuality q s).fdY = scaleTable (quantTable yqt q) := rfl
@[simp] theorem applyQuality_fdC (q : Nat) (s : State) : (applyQuality q s).fdC = scaleTable (quantTable cqt q) := rfl
@[simp] theorem applyQuality_width (q : Nat) (s : State) : (applyQuality q s).width = s.width := rfl
@[simp] theorem applyQuality_height (q : Nat) (s : State) : (applyQuality q s).height = s.height := rfl
@[simp] theorem applyQuality_pix (q : Nat) (s : State) : (applyQuality q s).pix = s.pix := rfl
@[simp] theorem applyQuality_pixAddr (q : Nat) (s : State) : (applyQuality q s).pixAddr = s.pixAddr := rfl
@[simp] theorem applyQuality_pixDone (q : Nat) (s : State) : (applyQuality q s).pixDone = s.pixDone := rfl
@[simp] theorem applyQuality_pixTotal (q : Nat) (s : State) : (applyQuality q s).pixTotal = s.pixTotal := rfl
@[simp] theorem applyQuality_predY (q : Nat) (s : State) : (applyQuality q s).predY = s.predY := rfl
@[simp] theorem applyQuality_predCb (q : Nat) (s : State) : (applyQuality q s).predCb = s.predCb := rfl
@[simp] theorem applyQuality_predCr (q : Nat) (s : State) : (applyQuality q s).predCr = s.predCr := rfl
@[simp] theorem applyQuality_wr (q : Nat) (s : State) : (applyQuality q s).wr = s.wr := rfl
@[simp] theorem applyQuality_outAddr (q : Nat) (s : State) : (applyQuality q s).outAddr = s.outAddr := rfl
@[simp] theorem applyQuality_doneIp (q : Nat) (s : State) : (applyQuality q s).doneIp = s.doneIp := rfl
@[simp] theorem applyQuality_irqEn (q : Nat) (s : State) : (applyQuality q s).irqEn = s.irqEn := rfl

/-! ## advanceCursor -/

@[simp] theorem advanceCursor_par (s : State) : (advanceCursor s).par = s.par := rfl
@[simp] theorem advanceCursor_host (s : State) : (advanceCursor s).host = s.host := rfl
@[simp] theorem advanceCursor_rdata (s : State) : (advanceCursor s).rdata = s.rdata := rfl
@[simp] theorem advanceCursor_epoch (s : State) : (advanceCursor s).epoch = s.epoch := rfl
@[simp] theorem advanceCursor_running (s : State) : (advanceCursor s).running = s.running := rfl
@[simp] theorem advanceCursor_consumed (s : State) : (advanceCursor s).consumed = (s.consumed || decide (s.height.toNat ≤ (nextCurY s).toNat)) := rfl
@[simp] theorem advanceCursor_complete (s : State) : (advanceCursor s).complete = s.complete := rfl
@[simp] theorem advanceCursor_truncated (s : State) : (advanceCursor s).truncated = s.truncated := rfl
@[simp] theorem advanceCursor_curX (s : State) : (advanceCursor s).curX = nextCurX s := rfl
@[simp] theorem advanceCursor_curY (s : State) : (advanceCursor s).curY = nextCurY s := rfl
@[simp] theorem advanceCursor_qAct (s : State) : (advanceCursor s).qAct = s.qAct := rfl
@[simp] theorem advanceCursor_qPend (s : State) : (advanceCursor s).qPend = s.qPend := rfl
@[simp] theorem advanceCursor_qPending (s : State) : (advanceCursor s).qPending = s.qPending := rfl
@[simp] theorem advanceCursor_qtY (s : State) : (advanceCursor s).qtY = s.qtY := rfl
@[simp] theorem advanceCursor_qtC (s : State) : (advanceCursor s).qtC = s.qtC := rfl
@[simp] theorem advanceCursor_fdY (s : State) : (advanceCursor s).fdY = s.fdY := rfl
@[simp] theorem advanceCursor_fdC (s : State) : (advanceCursor s).fdC = s.fdC := rfl
@[simp] theorem advanceCursor_width (s : State) : (advanceCursor s).width = s.width := rfl
@[simp] theorem advanceCursor_height (s : State) : (advanceCursor s).height = s.height := rfl
@[simp] theorem advanceCursor_pix (s : State) : (advanceCursor s).pix = s.pix := rfl
@[simp] theorem advanceCursor_pixAddr (s : State) : (advanceCursor s).pixAddr = s.pixAddr := rfl
@[simp] theorem advanceCursor_pixDone (s : State) : (advanceCursor s).pixDone = s.pixDone := rfl
@[simp] theorem advanceCursor_pixTotal (s : State) : (advanceCursor s).pixTotal = s.pixTotal := rfl
@[simp] theorem advanceCursor_predY (s : State) : (advanceCursor s).predY = s.predY := rfl
@[simp] theorem advanceCursor_predCb (s : State) : (advanceCursor s).predCb = s.predCb := rfl
@[simp] theorem advanceCursor_predCr (s : State) : (advanceCursor s).predCr = s.predCr := rfl
@[simp] theorem advanceCursor_wr (s : State) : (advanceCursor s).wr = s.wr := rfl
@[simp] theorem advanceCursor_outAddr (s : State) : (advanceCursor s).outAddr = s.outAddr := rfl
@[simp] theorem advanceCursor_doneIp (s : State) : (advanceCursor s).doneIp = s.doneIp := rfl
@[simp] theorem advanceCursor_irqEn (s : State) : (advanceCursor s).irqEn = s.irqEn := rfl

/-! ## openSession -/

@[simp] theorem openSession_par (s : State) : (openSession s).par = s.par := rfl
@[simp] theorem openSession_host (s : State) : (openSession s).host = s.host := rfl
@[simp] theorem openSession_rdata (s : State) : (openSession s).rdata = s.rdata := rfl
@[simp] theorem openSession_epoch (s : State) : (openSession s).epoch = s.epoch := rfl
@[simp] theorem openSession_running (s : State) : (openSession s).running = s.running := rfl
@[simp] theorem openSession_consumed (s : State) : (openSession s).consumed = false := rfl
@[simp] theorem openSession_complete (s : State) : (openSession s).complete = false := rfl
@[simp] theorem openSession_truncated (s : State) : (openSession s).truncated = false := rfl
@[simp] theorem openSession_curX (s : State) : (openSession s).curX = 0#32 := rfl
@[simp] theorem openSession_curY (s : State) : (openSession s).curY = 0#32 := rfl
@[simp] theorem openSession_qAct (s : State) : (openSession s).qAct = s.qAct := rfl
@[simp] theorem openSession_qPend (s : State) : (openSession s).qPend = s.qPend := rfl
@[simp] theorem openSession_qPending (s : State) : (openSession s).qPending = s.qPending := rfl
@[simp] theorem openSession_qtY (s : State) : (openSession s).qtY = s.qtY := rfl
@[simp] theorem openSession_qtC (s : State) : (openSession s).qtC = s.qtC := rfl
@[simp] theorem openSession_fdY (s : State) : (openSession s).fdY = s.fdY := rfl
@[simp] theorem openSession_fdC (s : State) : (openSession s).fdC = s.fdC := rfl
@[simp] theorem openSession_width (s : State) : (openSession s).width = s.width := rfl
@[simp] theorem openSession_height (s : State) : (openSession s).height = s.height := rfl
@[simp] theorem openSession_pix (s : State) : (openSession s).pix = s.pix := rfl
@[simp] theorem openSession_pixAddr (s : State) : (openSession s).pixAddr = s.pixAddr := rfl
@[simp] theorem openSession_pixDone (s : State) : (openSession s).pixDone = 0#32 := rfl
@[simp] theorem openSession_pixTotal (s : State) : (openSession s).pixTotal = BitVec.ofNat 32 (s.width.toNat * s.height.toNat) := rfl
@[simp] theorem openSession_predY (s : State) : (openSession s).predY = 0 := rfl
@[simp] theorem openSession_predCb (s : State) : (openSession s).predCb = 0 := rfl
@[simp] theorem openSession_predCr (s : State) : (openSession s).predCr = 0 := rfl
@[simp] theorem openSession_wr (s : State) : (openSession s).wr = { s.wr with out := [], ovf := false } := rfl
@[simp] theorem openSession_outAddr (s : State) : (openSession s).outAddr = 0#32 := rfl
@[simp] theorem openSession_doneIp (s : State) : (openSession s).doneIp = s.doneIp := rfl
@[simp] theorem openSession_irqEn (s : State) : (openSession s).irqEn = s.irqEn := rfl

/-! ## closeBlock -/

@[simp] theorem closeBlock_par (y cb cr : Vector Int 64) (w : Writer) (s : State) : (closeBlock y cb cr w s).par = s.par := rfl
@[simp] theorem closeBlock_host (y cb cr : Vector Int 64) (w : Writer) (s : State) : (closeBlock y cb cr w s).host = s.host := rfl
@[simp] theorem closeBlock_rdata (y cb cr : Vector Int 64) (w : Writer) (s : State) : (closeBlock y cb cr w s).rdata = s.rdata := rfl
@[simp] theorem closeBlock_epoch (y cb cr : Vector Int 64) (w : Writer) (s : State) : (closeBlock y cb cr w s).epoch = s.epoch := rfl
@[simp] theorem closeBlock_running (y cb cr : Vector Int 64) (w : Writer) (s : State) : (closeBlock y cb cr w s).running = s.running := rfl
@[simp] theorem closeBlock_consumed (y cb cr : Vector Int 64) (w : Writer) (s : State) : (closeBlock y cb cr w s).consumed = (s.consumed || decide (s.height.toNat ≤ (nextCurY s).toNat)) := rfl
@[simp] theorem closeBlock_complete (y cb cr : Vector Int 64) (w : Writer) (s : State) : (closeBlock y cb cr w s).complete = s.complete := rfl
@[simp] theorem closeBlock_truncated (y cb cr : Vector Int 64) (w : Writer) (s : State) : (closeBlock y cb cr w s).truncated = s.truncated := rfl
@[simp] theorem closeBlock_curX (y cb cr : Vector Int 64) (w : Writer) (s : State) : (closeBlock y cb cr w s).curX = nextCurX s := rfl
@[simp] theorem closeBlock_curY (y cb cr : Vector Int 64) (w : Writer) (s : State) : (closeBlock y cb cr w s).curY = nextCurY s := rfl
@[simp] theorem closeBlock_qAct (y cb cr : Vector Int 64) (w : Writer) (s : State) : (closeBlock y cb cr w s).qAct = s.qAct := rfl
@[simp] theorem closeBlock_qPend (y cb cr : Vector Int 64) (w : Writer) (s : State) : (closeBlock y cb cr w s).qPend = s.qPend := rfl
@[simp] theorem closeBlock_qPending (y cb cr : Vector Int 64) (w : Writer) (s : State) : (closeBlock y cb cr w s).qPending = s.qPending := rfl
@[simp] theorem closeBlock_qtY (y cb cr : Vector Int 64) (w : Writer) (s : State) : (closeBlock y cb cr w s).qtY = s.qtY := rfl
@[simp] theorem closeBlock_qtC (y cb cr : Vector Int 64) (w : Writer) (s : State) : (closeBlock y cb cr w s).qtC = s.qtC := rfl
@[simp] theorem closeBlock_fdY (y cb cr : Vector Int 64) (w : Writer) (s : State) : (closeBlock y cb cr w s).fdY = s.fdY := rfl
@[simp] theorem closeBlock_fdC (y cb cr : Vector Int 64) (w : Writer) (s : State) : (closeBlock y cb cr w s).fdC = s.fdC := rfl
@[simp] theorem closeBlock_width (y cb cr : Vector Int 64) (w : Writer) (s : State) : (closeBlock y cb cr w s).width = s.width := rfl
@[simp] theorem closeBlock_height (y cb cr : Vector Int 64) (w : Writer) (s : State) : (closeBlock y cb cr w s).height = s.height := rfl
@[simp] theorem closeBlock_pix (y cb cr : Vector Int 64) (w : Writer) (s : State) : (closeBlock y cb cr w s).pix = s.pix := rfl
@[simp] theorem closeBlock_pixAddr (y cb cr : Vector Int 64) (w : Writer) (s : State) : (closeBlock y cb cr w s).pixAddr = s.pixAddr := rfl
@[simp] theorem closeBlock_pixDone (y cb cr : Vector Int 64) (w : Writer) (s : State) : (closeBlock y cb cr w s).pixDone = s.pixDone + BitVec.ofNat 32 (blockPixels s) := rfl
@[simp] theorem closeBlock_pixTotal (y cb cr : Vector Int 64) (w : Writer) (s : State) : (closeBlock y cb cr w s).pixTotal = s.pixTotal := rfl
@[simp] theorem closeBlock_predY (y cb cr : Vector Int 64) (w : Writer) (s : State) : (closeBlock y cb cr w s).predY = pick y 0 0 := rfl
@[simp] theorem closeBlock_predCb (y cb cr : Vector Int 64) (w : Writer) (s : State) : (closeBlock y cb cr w s).predCb = pick cb 0 0 := rfl
@[simp] theorem closeBlock_predCr (y cb cr : Vector Int 64) (w : Writer) (s : State) : (closeBlock y cb cr w s).predCr = pick cr 0 0 := rfl
@[simp] theorem closeBlock_wr (y cb cr : Vector Int 64) (w : Writer) (s : State) : (closeBlock y cb cr w s).wr = w := rfl
@[simp] theorem closeBlock_outAddr (y cb cr : Vector Int 64) (w : Writer) (s : State) : (closeBlock y cb cr w s).outAddr = s.outAddr := rfl
@[simp] theorem closeBlock_doneIp (y cb cr : Vector Int 64) (w : Writer) (s : State) : (closeBlock y cb cr w s).doneIp = s.doneIp := rfl
@[simp] theorem closeBlock_irqEn (y cb cr : Vector Int 64) (w : Writer) (s : State) : (closeBlock y cb cr w s).irqEn = s.irqEn := rfl

/-! ## applyPending: the fields it never changes -/

@[simp] theorem applyPending_par (s : State) : (applyPending s).par = s.par := by
  unfold applyPending; split <;> rfl
@[simp] theorem applyPending_host (s : State) : (applyPending s).host = s.host := by
  unfold applyPending; split <;> rfl
@[simp] theorem applyPending_rdata (s : State) : (applyPending s).rdata = s.rdata := by
  unfold applyPending; split <;> rfl
@[simp] theorem applyPending_epoch (s : State) : (applyPending s).epoch = s.epoch := by
  unfold applyPending; split <;> rfl
@[simp] theorem applyPending_running (s : State) : (applyPending s).running = s.running := by
  unfold applyPending; split <;> rfl
@[simp] theorem applyPending_consumed (s : State) : (applyPending s).consumed = s.consumed := by
  unfold applyPending; split <;> rfl
@[simp] theorem applyPending_complete (s : State) : (applyPending s).complete = s.complete := by
  unfold applyPending; split <;> rfl
@[simp] theorem applyPending_truncated (s : State) : (applyPending s).truncated = s.truncated := by
  unfold applyPending; split <;> rfl
@[simp] theorem applyPending_curX (s : State) : (applyPending s).curX = s.curX := by
  unfold applyPending; split <;> rfl
@[simp] theorem applyPending_curY (s : State) : (applyPending s).curY = s.curY := by
  unfold applyPending; split <;> rfl
@[simp] theorem applyPending_qPend (s : State) : (applyPending s).qPend = s.qPend := by
  unfold applyPending; split <;> rfl
@[simp] theorem applyPending_width (s : State) : (applyPending s).width = s.width := by
  unfold applyPending; split <;> rfl
@[simp] theorem applyPending_height (s : State) : (applyPending s).height = s.height := by
  unfold applyPending; split <;> rfl
@[simp] theorem applyPending_pix (s : State) : (applyPending s).pix = s.pix := by
  unfold applyPending; split <;> rfl
@[simp] theorem applyPending_pixAddr (s : State) : (applyPending s).pixAddr = s.pixAddr := by
  unfold applyPending; split <;> rfl
@[simp] theorem applyPending_pixDone (s : State) : (applyPending s).pixDone = s.pixDone := by
  unfold applyPending; split <;> rfl
@[simp] theorem applyPending_pixTotal (s : State) : (applyPending s).pixTotal = s.pixTotal := by
  unfold applyPending; split <;> rfl
@[simp] theorem applyPending_predY (s : State) : (applyPending s).predY = s.predY := by
  unfold applyPending; split <;> rfl
@[simp] theorem applyPending_predCb (s : State) : (applyPending s).predCb = s.predCb := by
  unfold applyPending; split <;> rfl
@[simp] theorem applyPending_predCr (s : State) : (applyPending s).predCr = s.predCr := by
  unfold applyPending; split <;> rfl
@[simp] theorem applyPending_wr (s : State) : (applyPending s).wr = s.wr := by
  unfold applyPending; split <;> rfl
@[simp] theorem applyPending_outAddr (s : State) : (applyPending s).outAddr = s.outAddr := by
  unfold applyPending; split <;> rfl
@[simp] theorem applyPending_doneIp (s : State) : (applyPending s).doneIp = s.doneIp := by
  unfold applyPending; split <;> rfl
@[simp] theorem applyPending_irqEn (s : State) : (applyPending s).irqEn = s.irqEn := by
  unfold applyPending; split <;> rfl

/-! ## clearStatus: the fields it never changes -/

@[simp] theorem clearStatus_par (v : Word) (s : State) : (clearStatus v s).par = s.par := by
  unfold clearStatus; split <;> split <;> rfl
@[simp] theorem clearStatus_host (v : Word) (s : State) : (clearStatus v s).host = s.host := by
  unfold clearStatus; split <;> split <;> rfl
@[simp] theorem clearStatus_rdata (v : Word) (s : State) : (clearStatus v s).rdata = s.rdata := by
  unfold clearStatus; split <;> split <;> rfl
@[simp] theorem clearStatus_epoch (v : Word) (s : State) : (clearStatus v s).epoch = s.epoch := by
  unfold clearStatus; split <;> split <;> rfl
@[simp] theorem clearStatus_running (v : Word) (s : State) : (clearStatus v s).running = s.running := by
  unfold clearStatus; split <;> split <;> rfl
@[simp] theorem clearStatus_consumed (v : Word) (s : State) : (clearStatus v s).consumed = s.consumed := by
  unfold clearStatus; split <;> split <;> rfl
@[simp] theorem clearStatus_complete (v : Word) (s : State) : (clearStatus v s).complete = s.complete := by
  unfold clearStatus; split <;> split <;> rfl
@[simp] theorem clearStatus_truncated (v : Word) (s : State) : (clearStatus v s).truncated = s.truncated := by
  unfold clearStatus; split <;> split <;> rfl
@[simp] theorem clearStatus_curX (v : Word) (s : State) : (clearStatus v s).curX = s.curX := by
  unfold clearStatus; split <;> split <;> rfl
@[simp] theorem clearStatus_curY (v : Word) (s : State) : (clearStatus v s).curY = s.curY := by
  unfold clearStatus; split <;> split <;> rfl
@[simp] theorem clearStatus_qAct (v : Word) (s : State) : (clearStatus v s).qAct = s.qAct := by
  unfold clearStatus; split <;> split <;> rfl
@[simp] theorem clearStatus_qPend (v : Word) (s : State) : (clearStatus v s).qPend = s.qPend := by
  unfold clearStatus; split <;> split <;> rfl
@[simp] theorem clearStatus_qPending (v : Word) (s : State) : (clearStatus v s).qPending = s.qPending := by
  unfold clearStatus; split <;> split <;> rfl
@[simp] theorem clearStatus_qtY (v : Word) (s : State) : (clearStatus v s).qtY = s.qtY := by
  unfold clearStatus; split <;> split <;> rfl
@[simp] theorem clearStatus_qtC (v : Word) (s : State) : (clearStatus v s).qtC = s.qtC := by
  unfold clearStatus; split <;> split <;> rfl
@[simp] theorem clearStatus_fdY (v : Word) (s : State) : (clearStatus v s).fdY = s.fdY := by
  unfold clearStatus; split <;> split <;> rfl
@[simp] theorem clearStatus_fdC (v : Word) (s : State) : (clearStatus v s).fdC = s.fdC := by
  unfold clearStatus; split <;> split <;> rfl
@[simp] theorem clearStatus_width (v : Word) (s : State) : (clearStatus v s).width = s.width := by
  unfold clearStatus; split <;> split <;> rfl
@[simp] theorem clearStatus_height (v : Word) (s : State) : (clearStatus v s).height = s.height := by
  unfold clearStatus; split <;> split <;> rfl
@[simp] theorem clearStatus_pix (v : Word) (s : State) : (clearStatus v s).pix = s.pix := by
  unfold clearStatus; split <;> split <;> rfl
@[simp] theorem clearStatus_pixAddr (v : Word) (s : State) : (clearStatus v s).pixAddr = s.pixAddr := by
  unfold clearStatus; split <;> split <;> rfl
@[simp] theorem clearStatus_pixDone (v : Word) (s : State) : (clearStatus v s).pixDone = s.pixDone := by
  unfold clearStatus; split <;> split <;> rfl
@[simp] theorem clearStatus_pixTotal (v : Word) (s : State) : (clearStatus v s).pixTotal = s.pixTotal := by
  unfold clearStatus; split <;> split <;> rfl
@[simp] theorem clearStatus_predY (v : Word) (s : State) : (clearStatus v s).predY = s.predY := by
  unfold clearStatus; split <;> split <;> rfl
@[simp] theorem clearStatus_predCb (v : Word) (s : State) : (clearStatus v s).predCb = s.predCb := by
  unfold clearStatus; split <;> split <;> rfl
@[simp] theorem clearStatus_predCr (v : Word) (s : State) : (clearStatus v s).predCr = s.predCr := by
  unfold clearStatus; split <;> split <;> rfl
@[simp] theorem clearStatus_outAddr (v : Word) (s : State) : (clearStatus v s).outAddr = s.outAddr := by
  unfold clearStatus; split <;> split <;> rfl
@[simp] theorem clearStatus_irqEn (v : Word) (s : State) : (clearStatus v s).irqEn = s.irqEn := by
  unfold clearStatus; split <;> split <;> rfl

/-! ## closeSession: applyPending, and the bits TAIL writes -/

@[simp] theorem closeSession_par (w : Writer) (s : State) : (closeSession w s).par = s.par := by
  simp [closeSession]
@[simp] theorem closeSession_host (w : Writer) (s : State) : (closeSession w s).host = s.host := by
  simp [closeSession]
@[simp] theorem closeSession_rdata (w : Writer) (s : State) : (closeSession w s).rdata = s.rdata := by
  simp [closeSession]
@[simp] theorem closeSession_epoch (w : Writer) (s : State) : (closeSession w s).epoch = s.epoch := by
  simp [closeSession]
@[simp] theorem closeSession_running (w : Writer) (s : State) : (closeSession w s).running = false := rfl
@[simp] theorem closeSession_consumed (w : Writer) (s : State) : (closeSession w s).consumed = false := rfl
@[simp] theorem closeSession_complete (w : Writer) (s : State) : (closeSession w s).complete = true := rfl
@[simp] theorem closeSession_truncated (w : Writer) (s : State) : (closeSession w s).truncated = s.truncated := by
  simp [closeSession]
@[simp] theorem closeSession_curX (w : Writer) (s : State) : (closeSession w s).curX = s.curX := by
  simp [closeSession]
@[simp] theorem closeSession_curY (w : Writer) (s : State) : (closeSession w s).curY = s.curY := by
  simp [closeSession]
@[simp] theorem closeSession_qAct (w : Writer) (s : State) : (closeSession w s).qAct = (applyPending s).qAct := by
  unfold closeSession applyPending; dsimp only; split <;> rfl
@[simp] theorem closeSession_qPend (w : Writer) (s : State) : (closeSession w s).qPend = s.qPend := by
  simp [closeSession]
@[simp] theorem closeSession_qPending (w : Writer) (s : State) : (closeSession w s).qPending = (applyPending s).qPending := by
  unfold closeSession applyPending; dsimp only; split <;> rfl
@[simp] theorem closeSession_qtY (w : Writer) (s : State) : (closeSession w s).qtY = (applyPending s).qtY := by
  unfold closeSession applyPending; dsimp only; split <;> rfl
@[simp] theorem closeSession_qtC (w : Writer) (s : State) : (closeSession w s).qtC = (applyPending s).qtC := by
  unfold closeSession applyPending; dsimp only; split <;> rfl
@[simp] theorem closeSession_fdY (w : Writer) (s : State) : (closeSession w s).fdY = (applyPending s).fdY := by
  unfold closeSession applyPending; dsimp only; split <;> rfl
@[simp] theorem closeSession_fdC (w : Writer) (s : State) : (closeSession w s).fdC = (applyPending s).fdC := by
  unfold closeSession applyPending; dsimp only; split <;> rfl
@[simp] theorem closeSession_width (w : Writer) (s : State) : (closeSession w s).width = s.width := by
  simp [closeSession]
@[simp] theorem closeSession_height (w : Writer) (s : State) : (closeSession w s).height = s.height := by
  simp [closeSession]
@[simp] theorem closeSession_pix (w : Writer) (s : State) : (closeSession w s).pix = s.pix := by
  simp [closeSession]
@[simp] theorem closeSession_pixAddr (w : Writer) (s : State) : (closeSession w s).pixAddr = s.pixAddr := by
  simp [closeSession]
@[simp] theorem closeSession_pixDone (w : Writer) (s : State) : (closeSession w s).pixDone = s.pixDone := by
  simp [closeSession]
@[simp] theorem closeSession_pixTotal (w : Writer) (s : State) : (closeSession w s).pixTotal = s.pixTotal := by
  simp [closeSession]
@[simp] theorem closeSession_predY (w : Writer) (s : State) : (closeSession w s).predY = s.predY := by
  simp [closeSession]
@[simp] theorem closeSession_predCb (w : Writer) (s : State) : (closeSession w s).predCb = s.predCb := by
  simp [closeSession]
@[simp] theorem closeSession_predCr (w : Writer) (s : State) : (closeSession w s).predCr = s.predCr := by
  simp [closeSession]
@[simp] theorem closeSession_wr (w : Writer) (s : State) : (closeSession w s).wr = emitEoi s.par.maxOut w := by
  simp [closeSession]
@[simp] theorem closeSession_outAddr (w : Writer) (s : State) : (closeSession w s).outAddr = s.outAddr := by
  simp [closeSession]
@[simp] theorem closeSession_doneIp (w : Writer) (s : State) : (closeSession w s).doneIp = true := rfl
@[simp] theorem closeSession_irqEn (w : Writer) (s : State) : (closeSession w s).irqEn = s.irqEn := by
  simp [closeSession]

/-! ## The output side -/

@[simp] theorem recordError_byteNew (c : ErrCode) (w : Writer) : (recordError c w).byteNew = w.byteNew := by
  unfold recordError; split <;> rfl
@[simp] theorem recordError_bytePos (c : ErrCode) (w : Writer) : (recordError c w).bytePos = w.bytePos := by
  unfold recordError; split <;> rfl
@[simp] theorem recordError_out (c : ErrCode) (w : Writer) : (recordError c w).out = w.out := by
  unfold recordError; split <;> rfl
@[simp] theorem recordError_ovf (c : ErrCode) (w : Writer) : (recordError c w).ovf = w.ovf := by
  unfold recordError; split <;> rfl

@[simp] theorem recordError_err (c : ErrCode) (w : Writer) : (recordError c w).err = true := by
  unfold recordError; split
  · rfl
  · simpa using ‹¬w.err = false›

@[simp] theorem outAppend_byteNew (cap : Nat) (b : Byte) (w : Writer) : (outAppend cap b w).byteNew = w.byteNew := by
  unfold outAppend; split
  · rfl
  · split <;> simp
@[simp] theorem emitStuffed_byteNew (cap : Nat) (b : Byte) (w : Writer) : (emitStuffed cap b w).byteNew = w.byteNew := by
  unfold emitStuffed; split <;> simp
@[simp] theorem emitRaws_byteNew (cap : Nat) (bs : List Byte) (w : Writer) : (emitRaws cap bs w).byteNew = w.byteNew := by
  induction bs generalizing w with
  | nil => rfl
  | cons b bs ih => exact (ih (outAppend cap b w)).trans (outAppend_byteNew cap b w)
@[simp] theorem emitEoi_byteNew (cap : Nat) (w : Writer) : (emitEoi cap w).byteNew = w.byteNew := emitRaws_byteNew cap _ w
@[simp] theorem outAppend_bytePos (cap : Nat) (b : Byte) (w : Writer) : (outAppend cap b w).bytePos = w.bytePos := by
  unfold outAppend; split
  · rfl
  · split <;> simp
@[simp] theorem emitStuffed_bytePos (cap : Nat) (b : Byte) (w : Writer) : (emitStuffed cap b w).bytePos = w.bytePos := by
  unfold emitStuffed; split <;> simp
@[simp] theorem emitRaws_bytePos (cap : Nat) (bs : List Byte) (w : Writer) : (emitRaws cap bs w).bytePos = w.bytePos := by
  induction bs generalizing w with
  | nil => rfl
  | cons b bs ih => exact (ih (outAppend cap b w)).trans (outAppend_bytePos cap b w)
@[simp] theorem emitEoi_bytePos (cap : Nat) (w : Writer) : (emitEoi cap w).bytePos = w.bytePos := emitRaws_bytePos cap _ w
@[simp] theorem resetAccumulator_byteNew (w : Writer) : (resetAccumulator w).byteNew = 0#8 := rfl
@[simp] theorem resetAccumulator_bytePos (w : Writer) : (resetAccumulator w).bytePos = 7#3 := rfl
@[simp] theorem resetAccumulator_out (w : Writer) : (resetAccumulator w).out = w.out := rfl
@[simp] theorem resetAccumulator_ovf (w : Writer) : (resetAccumulator w).ovf = w.ovf := rfl
@[simp] theorem resetAccumulator_err (w : Writer) : (resetAccumulator w).err = w.err := rfl
@[simp] theorem resetAccumulator_errCode (w : Writer) : (resetAccumulator w).errCode = w.errCode := rfl
@[simp] theorem resetAccumulator_errMulti (w : Writer) : (resetAccumulator w).errMulti = w.errMulti := rfl

end Sys2Proof.Machine
end

