-- ==== Sys2Proof/Laws/Memory.lean ====
section
/-! SUPPORT. The pixel RAM: read after write, and the canonical form that every operation keeps. -/

namespace Sys2Proof.Machine

@[simp] theorem Memory.read_write_same (m : Memory) (i : Nat) (v : Word) : (m.write i v).read i = some v := by
  induction m with
  | nil => simp [Memory.write, Memory.read]
  | cons p m ih =>
    obtain ⟨j, u⟩ := p
    simp only [Memory.write]
    split
    · simp [Memory.read]
    · split
      · simp [Memory.read]
      · simp only [Memory.read]
        rw [if_neg ‹¬i = j›, ih]

theorem Memory.read_write_other (m : Memory) {i k : Nat} (v : Word) (h : k ≠ i) : (m.write i v).read k = m.read k := by
  induction m with
  | nil => simp [Memory.write, Memory.read, h]
  | cons p m ih =>
    obtain ⟨j, u⟩ := p
    simp only [Memory.write]
    split
    · simp [Memory.read, h]
    · split
      · subst i
        simp [Memory.read, h]
      · simp only [Memory.read, ih]

theorem Memory.risesFrom_mono {lo lo' : Nat} (h : lo' ≤ lo) {m : Memory} (hm : Memory.risesFrom lo m = true) :
    Memory.risesFrom lo' m = true := by
  cases m with
  | nil => rfl
  | cons p m =>
    simp only [Memory.risesFrom, Bool.and_eq_true, decide_eq_true_eq] at hm ⊢
    exact ⟨h.trans hm.1, hm.2⟩

theorem Memory.risesFrom_write {lo i : Nat} (h : lo ≤ i) (v : Word) {m : Memory}
    (hm : Memory.risesFrom lo m = true) : Memory.risesFrom lo (m.write i v) = true := by
  induction m generalizing lo with
  | nil => simp [Memory.write, Memory.risesFrom, h]
  | cons p m ih =>
    obtain ⟨j, u⟩ := p
    simp only [Memory.risesFrom, Bool.and_eq_true, decide_eq_true_eq] at hm
    simp only [Memory.write]
    split
    · simp only [Memory.risesFrom, Bool.and_eq_true, decide_eq_true_eq]
      exact ⟨h, by omega, hm.2⟩
    · split
      · subst i
        simpa [Memory.risesFrom] using hm
      · simp only [Memory.risesFrom, Bool.and_eq_true, decide_eq_true_eq]
        exact ⟨hm.1, ih (by omega) hm.2⟩

/-- A write keeps the canonical form. -/
theorem Memory.write_wf {m : Memory} (h : m.wf = true) (i : Nat) (v : Word) : (m.write i v).wf = true :=
  Memory.risesFrom_write (Nat.zero_le i) v h

/-- The reset memory has the canonical form. -/
theorem reset_pix_wf (p : Params) : (State.resetWith p).pix.wf = true := rfl

/-- Every index a memory lists after a write is the one written or was listed before. -/
theorem Memory.read_write_some {m : Memory} {i k : Nat} {v u : Word} (h : (m.write i v).read k = some u) :
    k = i ∨ m.read k = some u := by
  by_cases hk : k = i
  · exact .inl hk
  · exact .inr (by rwa [Memory.read_write_other m v hk] at h)

@[simp] theorem pixWord_pixStore_same (i : Nat) (v : Word) (s : State) : pixWord (pixStore i v s) i = v := by
  simp [pixWord]

theorem pixWord_pixStore_other {i k : Nat} (v : Word) (s : State) (h : k ≠ i) :
    pixWord (pixStore i v s) k = pixWord s k := by
  simp [pixWord, Memory.read_write_other _ _ h]

end Sys2Proof.Machine
end

