-- ==== Sys2Proof/Laws/Output.lean ====
section
/-! SUPPORT. What the shared output operations can do: appending, the bit accumulator, the error record. -/

namespace Sys2Proof.Machine

/-! ## OutAppend (20_memory.md R64) -/

theorem outAppend_room {cap : Nat} {w : Writer} (b : Byte) (h : w.out.length < cap) :
    outAppend cap b w = { w with out := w.out ++ [b] } := by
  simp [outAppend, h]

theorem outAppend_full {cap : Nat} {w : Writer} (b : Byte) (h : cap ≤ w.out.length) (ho : w.ovf = true) :
    outAppend cap b w = w := by
  simp [outAppend, Nat.not_lt.mpr h, ho]

/-- Everything OutAppend can do. -/
theorem outAppend_cases (cap : Nat) (b : Byte) (w : Writer) :
    (w.out.length < cap ∧ outAppend cap b w = { w with out := w.out ++ [b] }) ∨
    (cap ≤ w.out.length ∧ w.ovf = false ∧ outAppend cap b w = recordError .outOverflow { w with ovf := true }) ∨
    (cap ≤ w.out.length ∧ w.ovf = true ∧ outAppend cap b w = w) := by
  rcases Nat.lt_or_ge w.out.length cap with h | h
  · exact .inl ⟨h, outAppend_room b h⟩
  · cases ho : w.ovf with
    | true => exact .inr (.inr ⟨h, rfl, outAppend_full b h ho⟩)
    | false => exact .inr (.inl ⟨h, rfl, by simp [outAppend, Nat.not_lt.mpr h, ho]⟩)

/-- The output RAM keeps the bytes it holds and never grows past its capacity. -/
theorem outAppend_out (cap : Nat) (b : Byte) (w : Writer) (h : w.out.length ≤ cap) :
    w.out <+: (outAppend cap b w).out ∧ (outAppend cap b w).out.length ≤ cap := by
  rcases outAppend_cases cap b w with ⟨h', e⟩ | ⟨-, -, e⟩ | ⟨-, -, e⟩ <;> rw [e]
  · exact ⟨List.prefix_append _ _, by simpa using h'⟩
  · simpa using h
  · exact ⟨List.prefix_refl _, h⟩

/-- With room for all of them, EmitRaw on each byte of a list appends the list. -/
theorem emitRaws_room {cap : Nat} (bs : List Byte) (w : Writer) (h : w.out.length + bs.length ≤ cap) :
    emitRaws cap bs w = { w with out := w.out ++ bs } := by
  induction bs generalizing w with
  | nil => simp [emitRaws]
  | cons b bs ih =>
    simp only [List.length_cons] at h
    have hb : outAppend cap b w = { w with out := w.out ++ [b] } := outAppend_room b (by omega)
    show emitRaws cap bs (outAppend cap b w) = _
    rw [hb, ih _ (by simp only [List.length_append, List.length_cons, List.length_nil]; omega)]
    simp

/-- Everything EmitRaw on each byte of a list can do to the output RAM. -/
theorem emitRaws_out (cap : Nat) (bs : List Byte) (w : Writer) (h : w.out.length ≤ cap) :
    w.out <+: (emitRaws cap bs w).out ∧ (emitRaws cap bs w).out.length ≤ cap := by
  induction bs generalizing w with
  | nil => exact ⟨List.prefix_refl _, h⟩
  | cons b bs ih =>
    have h1 := outAppend_out cap b w h
    have h2 := ih (outAppend cap b w) h1.2
    exact ⟨h1.1.trans h2.1, h2.2⟩

theorem emitStuffed_out (cap : Nat) (b : Byte) (w : Writer) (h : w.out.length ≤ cap) :
    w.out <+: (emitStuffed cap b w).out ∧ (emitStuffed cap b w).out.length ≤ cap := by
  unfold emitStuffed
  split
  · have h1 := outAppend_out cap b w h
    have h2 := outAppend_out cap 0x00#8 (outAppend cap b w) h1.2
    exact ⟨h1.1.trans h2.1, h2.2⟩
  · exact outAppend_out cap b w h

/-! ## PutBits (44_bitwriter.md R261) -/

theorem sendBit_out (cap : Nat) (b : Bool) (w : Writer) (h : w.out.length ≤ cap) :
    w.out <+: (sendBit cap b w).out ∧ (sendBit cap b w).out.length ≤ cap := by
  unfold sendBit
  split
  · exact emitStuffed_out cap _ w h
  · exact ⟨List.prefix_refl _, h⟩

theorem sendBits_out (cap n v : Nat) (w : Writer) (h : w.out.length ≤ cap) :
    w.out <+: (sendBits cap n v w).out ∧ (sendBits cap n v w).out.length ≤ cap := by
  induction n generalizing w with
  | zero => exact ⟨List.prefix_refl _, h⟩
  | succ n ih =>
    have h1 := sendBit_out cap (v.testBit n) w h
    have h2 := ih (sendBit cap (v.testBit n) w) h1.2
    exact ⟨h1.1.trans h2.1, h2.2⟩

/-- Everything PutBits can answer. -/
theorem putBits_ok {cap n v : Nat} {w w' : Writer} (h : putBits cap n v w = .ok w') :
    (n ≤ 16 ∧ v < 2 ^ n) ∧ w' = sendBits cap n v w := by
  unfold putBits at h
  split at h
  · exact ⟨‹_›, by simpa using h.symm⟩
  · cases h

theorem putBits_eq {cap n v : Nat} (w : Writer) (hn : n ≤ 16) (hv : v < 2 ^ n) :
    putBits cap n v w = .ok (sendBits cap n v w) := by
  simp [putBits, hn, hv]

/-- TAIL's padding never meets a fault point (44_bitwriter.md R266). -/
theorem padToByte_total (cap : Nat) (pad : TailPad) (w : Writer) : ∃ w', padToByte cap pad w = .ok w' := by
  unfold padToByte
  split
  · rename_i h
    exact ⟨_, putBits_eq w (by omega) (by have := Nat.pos_of_neZero (2 ^ (w.bytePos.toNat + 1)); omega)⟩
  · cases pad with
    | none => exact ⟨w, rfl⟩
    | fullByte => exact ⟨_, putBits_eq w (by omega) (by norm_num)⟩

/-! ## Clear low bits of the accumulator (10_state.md R59, item 7) -/

/-- One bit keeps `BYTE_NEW[BYTE_POS:0] = 0`. -/
theorem sendBit_clear (cap : Nat) (b : Bool) (w : Writer) (h : accumulatorClear w) :
    accumulatorClear (sendBit cap b w) := by
  have key : ∀ (n : Byte) (p : BitVec 3) (b : Bool), n.toNat % 2 ^ (p.toNat + 1) = 0 → p ≠ 0#3 →
      (if b then n ||| 1#8 <<< p.toNat else n).toNat % 2 ^ ((p - 1#3).toNat + 1) = 0 := by decide +kernel
  unfold sendBit
  split
  · simp [accumulatorClear]
  · exact key w.byteNew w.bytePos b h ‹_›

theorem sendBits_clear (cap n v : Nat) (w : Writer) (h : accumulatorClear w) :
    accumulatorClear (sendBits cap n v w) := by
  induction n generalizing w with
  | zero => exact h
  | succ n ih => exact ih _ (sendBit_clear cap _ w h)

/-! ## The error record (60_exceptions.md R312) -/

theorem recordError_legal (c : ErrCode) {w : Writer} (h : errorRecordLegal w) :
    errorRecordLegal (recordError c w) := by
  unfold recordError errorRecordLegal at *
  cases he : w.err <;> cases c <;> simp_all [errValue]

theorem outAppend_legal (cap : Nat) (b : Byte) {w : Writer} (h : errorRecordLegal w) :
    errorRecordLegal (outAppend cap b w) := by
  rcases outAppend_cases cap b w with ⟨-, e⟩ | ⟨-, -, e⟩ | ⟨-, -, e⟩ <;> rw [e]
  · exact h
  · exact recordError_legal .outOverflow h
  · exact h

end Sys2Proof.Machine
end

