-- ==== Sys2Proof/Laws/Step.lean ====
section
/-! SUPPORT. Everything a step, and each shared way for an access to end, can do. -/

namespace Sys2Proof.Machine

@[simp] theorem orFault_ok {α : Type} (a : α) (f : α → Result) : orFault (.ok a) f = f a := rfl

@[simp] theorem orFault_error {α : Type} (e : Fault) (f : α → Result) : orFault (.error e) f = .fault e := rfl

@[simp] theorem next_inj {s t : State} : (Host.Outcome.next s : Result) = .next t ↔ s = t :=
  ⟨fun h => by cases h; rfl, fun h => by rw [h]⟩

@[simp] theorem fault_ne_next {f : Fault} {t : State} : ¬(Host.Outcome.fault f : Result) = .next t := by
  intro h; cases h

@[simp] theorem refused_ne_next {r : Refusal} {t : State} : ¬(Host.Outcome.refused r : Result) = .next t := by
  intro h; cases h

/-- The end of a command answers a next state only past its last fault point. -/
theorem orFault_eq_next {α : Type} {x : Except Fault α} {f : α → Result} {t : State} :
    orFault x f = .next t ↔ ∃ a, x = .ok a ∧ f a = .next t := by
  cases x with
  | ok a => simp
  | error e => simp

theorem step_idle {s : State} (h : s.host = []) : step s = .next s := by
  simp [step, h, idle]

theorem step_event {s : State} {e : Event} {rest : List Event} (h : s.host = e :: rest) :
    step s = serve e { s with host := rest } := by
  simp [step, h]

/-- Everything a step that answers a next state can be: idle, a reset, an instruction, a read of a reserved offset, or
an ignored write. -/
theorem step_next_cases {s t : State} (h : step s = .next t) :
    (s.host = [] ∧ t = s) ∨
    ∃ e rest, s.host = e :: rest ∧
      ((e = .reset ∧ t = resetUnit { s with host := rest }) ∨
       ∃ a, e = .access a ∧
        ((∃ i, decode a = .instr i ∧ exec i { s with host := rest } = .next t) ∨
         (decode a = .reservedRead ∧ t = answer 0#32 { s with host := rest }) ∨
         (decode a = .ignoredWrite ∧ t = { s with host := rest }))) := by
  cases hh : s.host with
  | nil => rw [step_idle hh] at h; exact .inl ⟨rfl, (next_inj.mp h).symm⟩
  | cons e rest =>
    rw [step_event hh] at h
    refine .inr ⟨e, rest, rfl, ?_⟩
    cases e with
    | reset => exact .inl ⟨rfl, (next_inj.mp h).symm⟩
    | access a =>
      refine .inr ⟨a, rfl, ?_⟩
      simp only [serve] at h
      split at h
      · exact .inl ⟨_, ‹_›, h⟩
      · exact .inr (.inl ⟨‹_›, (next_inj.mp h).symm⟩)
      · exact .inr (.inr ⟨‹_›, (next_inj.mp h).symm⟩)
      · exact absurd h refused_ne_next

/-- A register write that a session refuses: everything it can do. -/
theorem writeWhileIdle_next {s t u : State} (h : writeWhileIdle s t = .next u) :
    (s.running = true ∧ u = refuseWith .cfgRunning s) ∨ (s.running = false ∧ u = t) := by
  unfold writeWhileIdle at h
  split at h
  · exact .inl ⟨‹_›, (next_inj.mp h).symm⟩
  · exact .inr ⟨by simpa using ‹¬s.running = true›, (next_inj.mp h).symm⟩

/-- Everything START can do. -/
theorem execStart_next {s t : State} (h : execStart s = .next t) :
    (s.running = true ∧ t = refuseWith .startRunning s) ∨
    (s.running = false ∧ (s.width = 0#16 ∨ s.height = 0#16) ∧ t = refuseWith .startNoSource s) ∨
    (s.running = false ∧ s.par.maxPixels < s.width.toNat * s.height.toNat ∧ t = refuseWith .startTooLarge s) ∨
    (s.running = false ∧ s.width ≠ 0#16 ∧ s.height ≠ 0#16 ∧ s.width.toNat * s.height.toNat ≤ s.par.maxPixels ∧
      t = { openSession s with wr := emitHeader (openSession s) (openSession s).wr, running := true }) := by
  unfold execStart at h
  cases hr : s.running with
  | true => rw [hr] at h; exact .inl ⟨rfl, (next_inj.mp h).symm⟩
  | false =>
    rw [hr] at h
    by_cases hz : s.width = 0#16 ∨ s.height = 0#16
    · rw [if_neg (by simp), if_pos hz] at h
      exact .inr (.inl ⟨rfl, hz, (next_inj.mp h).symm⟩)
    · rw [if_neg (by simp), if_neg hz] at h
      by_cases hp : s.par.maxPixels < s.width.toNat * s.height.toNat
      · rw [if_pos hp] at h
        exact .inr (.inr (.inl ⟨rfl, hp, (next_inj.mp h).symm⟩))
      · rw [if_neg hp] at h
        rw [not_or] at hz
        exact .inr (.inr (.inr ⟨rfl, hz.1, hz.2, Nat.not_lt.mp hp, (next_inj.mp h).symm⟩))

/-- BLOCK past its checks, with its data units and their coding known. -/
theorem encodeBlock_ok {s : State} {y cb cr : Vector Int 64} {w : Writer} (h : blockUnits s = .ok (y, cb, cr))
    (hw : codeUnits s y cb cr = .ok w) : encodeBlock s = .next (closeBlock y cb cr w s) := by
  rw [encodeBlock, h, orFault_ok]
  exact (congrArg (orFault · fun w => Host.Outcome.next (closeBlock y cb cr w s)) hw).trans (orFault_ok w _)

/-- Everything BLOCK can do when it answers a next state. -/
theorem execBlock_next {s t : State} (h : execBlock s = .next t) :
    (s.running = false ∧ t = refuseWith .notRunning s) ∨
    (s.running = true ∧ s.consumed = true ∧ t = refuseWith .blockConsumed s) ∨
    (s.running = true ∧ s.consumed = false ∧ cursorInImage s = true ∧
      ∃ y cb cr w, blockUnits s = .ok (y, cb, cr) ∧ codeUnits s y cb cr = .ok w ∧ t = closeBlock y cb cr w s) := by
  unfold execBlock at h
  cases hr : s.running with
  | false => rw [hr] at h; exact .inl ⟨rfl, (next_inj.mp h).symm⟩
  | true =>
    cases hc : s.consumed with
    | true => rw [hr, hc] at h; exact .inr (.inl ⟨rfl, rfl, (next_inj.mp h).symm⟩)
    | false =>
      cases hi : cursorInImage s with
      | false => rw [hr, hc, hi] at h; simp at h
      | true =>
        rw [hr, hc, hi] at h
        simp only [Bool.true_eq_false, Bool.false_eq_true, if_false] at h
        obtain ⟨⟨y, cb, cr⟩, h1, h⟩ := orFault_eq_next.mp h
        obtain ⟨w, h2, h⟩ := orFault_eq_next.mp h
        exact .inr (.inr ⟨rfl, rfl, rfl, y, cb, cr, w, h1, h2, (next_inj.mp h).symm⟩)

/-- Everything TAIL can do. -/
theorem execTail_next {s t : State} (h : execTail s = .next t) :
    (s.running = false ∧ t = refuseWith .notRunning s) ∨
    (s.running = true ∧ s.consumed = false ∧ t = refuseWith .tailEarly s) ∨
    (s.running = true ∧ s.consumed = true ∧
      ∃ w, padToByte s.par.maxOut s.par.tailPad s.wr = .ok w ∧ t = closeSession w s) := by
  unfold execTail at h
  cases hr : s.running with
  | false => rw [hr] at h; exact .inl ⟨rfl, (next_inj.mp h).symm⟩
  | true =>
    cases hc : s.consumed with
    | false => rw [hr, hc] at h; exact .inr (.inl ⟨rfl, rfl, (next_inj.mp h).symm⟩)
    | true =>
      rw [hr, hc] at h
      simp only [Bool.true_eq_false, if_false] at h
      obtain ⟨w, h1, h⟩ := orFault_eq_next.mp h
      exact .inr (.inr ⟨rfl, rfl, w, h1, (next_inj.mp h).symm⟩)

/-- Everything a PIX_DATA write can do. -/
theorem execWrPixData_next {s t : State} {v : Word} (h : execWrPixData v s = .next t) :
    (s.running = true ∧ t = refuseWith .cfgRunning s) ∨
    (s.running = false ∧ s.par.maxPixels ≤ s.pixAddr.toNat ∧ t = refuseWith .pixRange s) ∨
    (s.running = false ∧ s.pixAddr.toNat < s.par.maxPixels ∧
      t = { pixStore s.pixAddr.toNat v s with pixAddr := s.pixAddr + 1#32 }) := by
  unfold execWrPixData at h
  cases hr : s.running with
  | true => rw [hr] at h; exact .inl ⟨rfl, (next_inj.mp h).symm⟩
  | false =>
    rw [hr] at h
    by_cases hp : s.pixAddr.toNat < s.par.maxPixels
    · rw [if_neg (by simp), if_pos hp] at h
      exact .inr (.inr ⟨rfl, hp, (next_inj.mp h).symm⟩)
    · rw [if_neg (by simp), if_neg hp] at h
      exact .inr (.inl ⟨rfl, Nat.not_lt.mp hp, (next_inj.mp h).symm⟩)

end Sys2Proof.Machine
end

