-- ==== Sys2Proof/Laws/Commands.lean ====
section
/-! SUPPORT. Everything each command and each register write with a check can do, and the header's length. -/

namespace Sys2Proof.Machine

/-! ## Errors -/

/-- A refused access is the state before plus one error. -/
theorem refuseWith_eq (c : ErrCode) (s : State) : refuseWith c s = withError (errValue c) s := by
  cases he : s.wr.err <;> simp [refuseWith, recordError, withError, he]

theorem raiseUsageError_eq (c : ErrCode) (s : State) : raiseUsageError c s = .next (withError (errValue c) s) := by
  rw [raiseUsageError, refuseWith_eq]

/-- The words that decode to no command are the words that are not legal (30_encoding.md R95). -/
theorem decodeCmd_eq_none_iff (w : Word) : decodeCmd w = none ↔ legalCommand w = false := by
  unfold decodeCmd legalCommand
  dsimp only
  generalize w.extractLsb' 8 8 = rsv
  generalize w.extractLsb' 16 16 = imm
  have h : ∀ opc : Byte, 0x06 < opc.toNat ∨ opc.toNat ∈ [0, 1, 2, 3, 4, 5, 6] := by decide +kernel
  generalize w.extractLsb' 0 8 = opc
  rcases h opc with h | h
  · simp [h]
  · by_cases hr : rsv = 0#8
    · by_cases h1 : opc = 0x01#8
      · subst h1; simp [hr]
      · by_cases hi : imm = 0#16
        · simp only [List.mem_cons, List.not_mem_nil, or_false] at h
          rcases h with h | h | h | h | h | h | h <;> simp [h, hr, hi]
        · simp [h1, hi, hr]
    · have : ¬0x06 < opc.toNat := by simp at h; omega
      simp [hr, this]

/-- A CMD write of an illegal word records ILLEGAL_CMD and does nothing else. -/
theorem execWrCmd_illegal {w : Word} (h : legalCommand w = false) (s : State) :
    execWrCmd w s = .next (withError 7#8 s) := by
  rw [execWrCmd, (decodeCmd_eq_none_iff w).mpr h]
  exact raiseUsageError_eq .illegalCmd s

/-! ## The pending quality (40_commands.md R117) -/

theorem applyPending_none {s : State} (h : s.qPending = false) : applyPending s = s := by
  simp [applyPending, h]

theorem applyPending_some {s : State} (h : s.qPending = true) :
    applyPending s = applyQuality s.qPend.toNat { s with qAct := s.qPend, qPending := false } := by
  simp [applyPending, h]

/-- SET_QUALITY's operand lies in 1..100 (42_quant_zigzag.md R190). -/
theorem qualityOperand_toNat (imm : BitVec 16) :
    (qualityOperand imm).toNat = (min (max imm.toInt 1) 100).toNat := by
  simp only [qualityOperand, clampQuality, clamp, BitVec.toNat_ofNat]
  omega

/-! ## The commands -/

/-- Everything SET_QUALITY can do. -/
theorem execSetQuality_next {imm : BitVec 16} {s t : State} (h : execSetQuality imm s = .next t) :
    (s.running = true ∧ t = { s with qPend := qualityOperand imm, qPending := true }) ∨
    (s.running = false ∧
      t = applyQuality (qualityOperand imm).toNat { s with qPend := qualityOperand imm, qAct := qualityOperand imm }) := by
  unfold execSetQuality at h
  cases hr : s.running with
  | true => rw [hr] at h; exact .inl ⟨rfl, (next_inj.mp h).symm⟩
  | false => rw [hr] at h; exact .inr ⟨rfl, (next_inj.mp h).symm⟩

/-- Everything STOP can do. -/
theorem execStop_next {s t : State} (h : execStop s = .next t) :
    (s.running = false ∧ t = s) ∨
    (s.running = true ∧ t = applyPending { s with running := false, consumed := false, truncated := true }) := by
  unfold execStop at h
  cases hr : s.running with
  | true => rw [hr] at h; exact .inr ⟨rfl, (next_inj.mp h).symm⟩
  | false => rw [hr] at h; exact .inl ⟨rfl, (next_inj.mp h).symm⟩

/-- Everything DISPOSE can do. -/
theorem execDispose_next {s t : State} (h : execDispose s = .next t) :
    (s.running = true ∧ t = s) ∨
    (s.running = false ∧ t = { s with
      wr := { s.wr with out := [], ovf := false }
      outAddr := 0#32
      complete := false
      truncated := false }) := by
  unfold execDispose at h
  cases hr : s.running with
  | true => rw [hr] at h; exact .inl ⟨rfl, (next_inj.mp h).symm⟩
  | false => rw [hr] at h; exact .inr ⟨rfl, (next_inj.mp h).symm⟩

/-- Everything an OUT_DATA read can do. -/
theorem execRdOutData_next {s t : State} (h : execRdOutData s = .next t) :
    ((s.running = true ∨ s.wr.out.length ≤ s.outAddr.toNat) ∧ t = answer 0#32 s) ∨
    (s.running = false ∧ s.outAddr.toNat < s.wr.out.length ∧
      t = answer ((s.wr.out.getD s.outAddr.toNat 0#8).setWidth 32) { s with outAddr := s.outAddr + 1#32 }) := by
  unfold execRdOutData at h
  by_cases hc : s.running = true ∨ s.wr.out.length ≤ s.outAddr.toNat
  · rw [if_pos hc] at h; exact .inl ⟨hc, (next_inj.mp h).symm⟩
  · rw [if_neg hc] at h
    rw [not_or] at hc
    exact .inr ⟨by simpa using hc.1, Nat.not_le.mp hc.2, (next_inj.mp h).symm⟩

/-! ## The header (45_framer.md R287) -/

/-- The header is 607 bytes for every image and quality. -/
theorem headerBytes_length (s : State) : (headerBytes s).length = 607 := by
  have h1 : app0Bytes.length = 18 := by decide
  have h2 : dhtBytes.length = 420 := by decide +kernel
  have h3 : sosBytes.length = 14 := by decide
  simp only [headerBytes, dqtBytes, sof0Bytes, soiBytes, wordBytes, List.length_append, List.length_cons,
    List.length_nil, Vector.length_toList, h1, h2, h3]

/-- The header is a function of the tables and the image size. -/
theorem headerBytes_congr {s t : State} (hy : s.qtY = t.qtY) (hc : s.qtC = t.qtC) (hw : s.width = t.width)
    (hh : s.height = t.height) : headerBytes s = headerBytes t := by
  simp only [headerBytes, hy, hc, hw, hh]

end Sys2Proof.Machine
end

