-- ==== Sys2Proof/Laws/Entropy.lean ====
section
/-! SUPPORT. Everything the coding of an MCU and the tail padding can do to the output side: they send bits. A property
of the output side that every PutBits keeps is kept by each of them. -/

namespace Sys2Proof.Machine

/-- A property that sending bits keeps. -/
def keptBySending (cap : Nat) (P : Writer → Prop) : Prop := ∀ n v w, P w → P (sendBits cap n v w)

variable {cap : Nat} {P : Writer → Prop}

theorem putBits_keeps (hP : keptBySending cap P) {n v : Nat} {w w' : Writer} (h : putBits cap n v w = .ok w')
    (hw : P w) : P w' := by
  rw [(putBits_ok h).2]
  exact hP n v w hw

theorem putCode_keeps (hP : keptBySending cap P) {ht : List HuffCode} {sym : Nat} {w w' : Writer}
    (h : putCode cap ht sym w = .ok w') (hw : P w) : P w' := by
  unfold putCode at h
  split at h
  · exact putBits_keeps hP h hw
  · cases h

theorem putValue_keeps (hP : keptBySending cap P) {ht : List HuffCode} {sym : Nat} {v : Int} {w w' : Writer}
    (h : putValue cap ht sym v w = .ok w') (hw : P w) : P w' := by
  obtain ⟨u, h1, h⟩ := andThen_eq_ok.mp h
  have hu := putCode_keeps hP h1 hw
  split at h
  · cases h; exact hu
  · exact putBits_keeps hP h hu

theorem putZrls_keeps (hP : keptBySending cap P) {ht : List HuffCode} {n : Nat} {w w' : Writer}
    (h : putZrls cap ht n w = .ok w') (hw : P w) : P w' := by
  induction n generalizing w with
  | zero => cases h; exact hw
  | succ n ih =>
    obtain ⟨u, h1, h⟩ := andThen_eq_ok.mp h
    exact ih h (putCode_keeps hP h1 hw)

theorem scanAc_keeps (hP : keptBySending cap P) {ht : List HuffCode} {vs : List Int} {run : Nat} {w w' : Writer}
    (h : scanAc cap ht vs run w = .ok w') (hw : P w) : P w' := by
  induction vs generalizing run w with
  | nil => cases h; exact hw
  | cons v vs ih =>
    simp only [scanAc] at h
    split at h
    · exact ih h hw
    · obtain ⟨u, h1, h⟩ := andThen_eq_ok.mp h
      obtain ⟨x, h2, h⟩ := andThen_eq_ok.mp h
      exact ih h (putValue_keeps hP h2 (putZrls_keeps hP h1 hw))

theorem encodeAc_keeps (hP : keptBySending cap P) {ht : List HuffCode} {du : Vector Int 64} {w w' : Writer}
    (h : encodeAc cap ht du w = .ok w') (hw : P w) : P w' := by
  obtain ⟨u, h1, h⟩ := andThen_eq_ok.mp h
  have hu := scanAc_keeps hP h1 hw
  split at h
  · cases h; exact hu
  · exact putCode_keeps hP h hu

theorem codeUnit_keeps (hP : keptBySending cap P) {dc ac : HuffSpec} {pred : Int} {du : Vector Int 64} {w w' : Writer}
    (h : codeUnit cap dc ac pred du w = .ok w') (hw : P w) : P w' := by
  obtain ⟨u, h1, h⟩ := andThen_eq_ok.mp h
  exact encodeAc_keeps hP h (putValue_keeps hP h1 hw)

/-- What every PutBits keeps, coding an MCU keeps. -/
theorem codeUnits_keeps {s : State} (hP : keptBySending s.par.maxOut P) {y cb cr : Vector Int 64} {w : Writer}
    (h : codeUnits s y cb cr = .ok w) (hw : P s.wr) : P w := by
  obtain ⟨u, h1, h⟩ := andThen_eq_ok.mp h
  obtain ⟨v, h2, h⟩ := andThen_eq_ok.mp h
  exact codeUnit_keeps hP h (codeUnit_keeps hP h2 (codeUnit_keeps hP h1 hw))

/-- What every PutBits keeps, the tail padding keeps. -/
theorem padToByte_keeps (hP : keptBySending cap P) {pad : TailPad} {w w' : Writer} (h : padToByte cap pad w = .ok w')
    (hw : P w) : P w' := by
  unfold padToByte at h
  split at h
  · exact putBits_keeps hP h hw
  · split at h
    · cases h; exact hw
    · exact putBits_keeps hP h hw

/-! ## Properties that sending bits keeps -/

/-- The output only grows, and never past its capacity. -/
theorem sending_grows (out : List Byte) :
    keptBySending cap (fun w => out <+: w.out ∧ w.out.length ≤ cap) := by
  intro n v w h
  have h1 := sendBits_out cap n v w h.2
  exact ⟨h.1.trans h1.1, h1.2⟩

/-- The unsent bits of the byte in progress stay clear (10_state.md R59, item 7). -/
theorem sending_clear : keptBySending cap accumulatorClear := fun n v w h => sendBits_clear cap n v w h

theorem sendBit_legal (b : Bool) {w : Writer} (h : errorRecordLegal w) : errorRecordLegal (sendBit cap b w) := by
  unfold sendBit
  split
  · unfold emitStuffed
    split
    · exact outAppend_legal cap _ (outAppend_legal cap _ h)
    · exact outAppend_legal cap _ h
  · exact h

/-- The error record stays legal. -/
theorem sending_legal : keptBySending cap errorRecordLegal := by
  intro n v w h
  induction n generalizing w with
  | zero => exact h
  | succ n ih => exact ih _ (sendBit_legal _ h)

theorem outAppend_ovf (b : Byte) {w : Writer} (h : w.ovf = true) : (outAppend cap b w).ovf = true := by
  rcases outAppend_cases cap b w with ⟨-, e⟩ | ⟨-, -, e⟩ | ⟨-, -, e⟩ <;> rw [e]
  · exact h
  · unfold recordError; split <;> rfl
  · exact h

theorem sendBit_ovf (b : Bool) {w : Writer} (h : w.ovf = true) : (sendBit cap b w).ovf = true := by
  unfold sendBit
  split
  · unfold emitStuffed
    split
    · exact outAppend_ovf _ (outAppend_ovf _ h)
    · exact outAppend_ovf _ h
  · exact h

/-- OVF is sticky (10_state.md R28). -/
theorem sending_ovf : keptBySending cap (fun w => w.ovf = true) := by
  intro n v w h
  induction n generalizing w with
  | zero => exact h
  | succ n ih => exact ih _ (sendBit_ovf _ h)

end Sys2Proof.Machine
end

