-- ==== Sys2Proof/Laws/Float.lean ====
section
/-! SUPPORT. What one rounding does (00_scope.md R9): the fields of a packed value, its magnitude, and its error. -/

namespace Sys2Proof.Machine

/-! ## Fields of a packed value -/

theorem f64Pack_toNat (neg : Bool) {bits : Nat} (h : bits ≤ f64InfBits) :
    (f64Pack neg bits).toNat = neg.toNat * 2 ^ 63 + bits := by
  have hb : bits < 2 ^ 63 := by unfold f64InfBits at h; omega
  simp only [f64Pack, Nat.min_eq_left h, BitVec.toNat_append, BitVec.toNat_ofNat, Nat.mod_eq_of_lt hb]
  rw [← Nat.shiftLeft_add_eq_or_of_lt hb, Nat.shiftLeft_eq]
  cases neg <;> simp

@[simp] theorem f64Neg_pack (neg : Bool) (bits : Nat) : f64Neg (f64Pack neg bits) = neg := by
  rw [f64Neg, f64Pack, BitVec.msb_append]
  cases neg <;> rfl

theorem f64Exp_pack (neg : Bool) {bits : Nat} (h : bits ≤ f64InfBits) :
    f64Exp (f64Pack neg bits) = bits / 2 ^ 52 := by
  simp only [f64Exp, BitVec.extractLsb'_toNat, f64Pack_toNat neg h, Nat.shiftRight_eq_div_pow]
  unfold f64InfBits at h
  cases neg <;> simp only [Bool.toNat_false, Bool.toNat_true] <;> omega

theorem f64Frac_pack (neg : Bool) {bits : Nat} (h : bits ≤ f64InfBits) :
    f64Frac (f64Pack neg bits) = bits % 2 ^ 52 := by
  simp only [f64Frac, BitVec.extractLsb'_toNat, f64Pack_toNat neg h, Nat.shiftRight_zero]
  cases neg <;> simp only [Bool.toNat_false, Bool.toNat_true] <;> omega

/-- A magnitude of `q` last places, `k` binary places up: what the encoding of the sum of both fields means. -/
theorem f64Mag_pack (neg : Bool) {k q : Nat} (hq : q ≤ 2 ^ 53) (hk : 1 ≤ k → 2 ^ 52 ≤ q) (h : k ≤ 2044) :
    f64Mag (f64Pack neg (k * 2 ^ 52 + q)) = q * 2 ^ k := by
  have hi : k * 2 ^ 52 + q ≤ f64InfBits := by unfold f64InfBits; omega
  unfold f64Mag
  rw [f64Exp_pack neg hi, f64Frac_pack neg hi]
  rcases Nat.lt_or_ge q (2 ^ 52) with h1 | h1
  · have : k = 0 := by by_contra hc; have := hk (by omega); omega
    subst this
    rw [if_pos (by omega)]
    omega
  · rcases Nat.lt_or_ge q (2 ^ 53) with h2 | h2
    · have e1 : (k * 2 ^ 52 + q) / 2 ^ 52 = k + 1 := by omega
      have e2 : (k * 2 ^ 52 + q) % 2 ^ 52 = q - 2 ^ 52 := by omega
      rw [e1, e2, if_neg (by omega), Nat.add_sub_cancel, Nat.add_sub_cancel' h1]
    · have : q = 2 ^ 53 := by omega
      subst this
      have e1 : (k * 2 ^ 52 + 2 ^ 53) / 2 ^ 52 = k + 2 := by omega
      have e2 : (k * 2 ^ 52 + 2 ^ 53) % 2 ^ 52 = 0 := by omega
      rw [e1, e2, if_neg (by omega)]
      have : k + 2 - 1 = k + 1 := by omega
      rw [this, Nat.add_zero, Nat.pow_succ, pow_succ 2 52]
      ring

/-- A packed magnitude below infinity is finite. -/
theorem f64Finite_pack (neg : Bool) {bits : Nat} (h : bits < f64InfBits) : f64Finite (f64Pack neg bits) = true := by
  simp only [f64Finite, f64Exp_pack neg (Nat.le_of_lt h), bne_iff_ne, ne_eq]
  unfold f64InfBits at h
  omega

/-! ## Rounding to the nearest integer, ties to even -/

/-- The rounded quotient is one of the two neighbours. -/
theorem nearestEven_cases (num den : Nat) :
    nearestEven num den = num / den ∨ nearestEven num den = num / den + 1 := by
  unfold nearestEven
  dsimp only
  split
  · exact .inl rfl
  · split
    · exact .inr rfl
    · split
      · exact .inl rfl
      · exact .inr rfl

/-- The rounded quotient is off by at most half the divisor. -/
theorem nearestEven_error {num den : Nat} (hd : 0 < den) :
    2 * (nearestEven num den * den) ≤ 2 * num + den ∧ 2 * num ≤ 2 * (nearestEven num den * den) + den := by
  have h := Nat.div_add_mod num den
  have hr := Nat.mod_lt num hd
  have hc : num / den * den = den * (num / den) := Nat.mul_comm _ _
  unfold nearestEven
  dsimp only
  split
  · constructor <;> omega
  · split
    · rw [Nat.add_mul, Nat.one_mul]
      constructor <;> omega
    · split
      · constructor <;> omega
      · rw [Nat.add_mul, Nat.one_mul]
        constructor <;> omega

/-- A quotient that is exact stays. -/
theorem nearestEven_exact {den : Nat} (hd : 0 < den) (q : Nat) : nearestEven (q * den) den = q := by
  unfold nearestEven
  dsimp only
  rw [Nat.mul_div_cancel q hd, Nat.mul_mod_left, if_pos (by omega)]

/-! ## One rounding to binary64 -/

/-- Within its range, the highest place is the binary logarithm. -/
theorem topPlace_eq_log2 (w : Nat) : ∀ {n : Nat}, n < 2 ^ 2 ^ w → topPlace w n = n.log2 := by
  induction w with
  | zero =>
    intro n h
    have : n = 0 ∨ n = 1 := by omega
    rcases this with rfl | rfl <;> rfl
  | succ w ih =>
    intro n h
    have hs : 2 ^ 2 ^ (w + 1) = 2 ^ 2 ^ w * 2 ^ 2 ^ w := by rw [← pow_add]; congr 1; omega
    rw [topPlace]
    split
    case isFalse hn => exact ih (by omega)
    case isTrue hn =>
      have hq : n / 2 ^ 2 ^ w ≠ 0 := (Nat.div_pos hn (by positivity)).ne'
      rw [ih (Nat.div_lt_of_lt_mul (hs ▸ h)), Eq.comm, Nat.log2_eq_iff (Nat.lt_of_lt_of_le (by positivity) hn).ne']
      have h1 := Nat.log2_self_le hq
      have h2 := Nat.lt_log2_self (n := n / 2 ^ 2 ^ w)
      constructor
      · rw [pow_add, Nat.mul_comm]
        exact (Nat.mul_le_mul_right _ h1).trans (Nat.div_mul_le_self n _)
      · rw [Nat.add_assoc, pow_add, Nat.mul_comm, ← Nat.div_lt_iff_lt_mul (by positivity)]
        exact h2

/-- Above its range, it is the highest place of the range. -/
theorem topPlace_of_ge (w : Nat) : ∀ {n : Nat}, 2 ^ 2 ^ w ≤ n → topPlace w n = 2 ^ w - 1 := by
  induction w with
  | zero => intro n _; rfl
  | succ w ih =>
    intro n h
    have hs : 2 ^ 2 ^ (w + 1) = 2 ^ 2 ^ w * 2 ^ 2 ^ w := by rw [← pow_add]; congr 1; omega
    have hp : 0 < 2 ^ 2 ^ w := by positivity
    rw [topPlace, if_pos ((Nat.le_mul_of_pos_right _ hp).trans (hs ▸ h)),
      ih ((Nat.le_div_iff_mul_le hp).mpr (hs ▸ h))]
    have : 0 < 2 ^ w := by positivity
    omega

/-- The place of the last bit of a rounded value, above the least unit. -/
def roundPlace (num den : Nat) : Nat := (num / den).log2 - 52

/-- Magnitude bits from infinity on all give infinity. -/
theorem f64Pack_of_ge (neg : Bool) {bits : Nat} (h : f64InfBits ≤ bits) : f64Pack neg bits = f64Pack neg f64InfBits := by
  rw [f64Pack, f64Pack, Nat.min_eq_right h, Nat.min_self]

/-- One rounding, by the binary logarithm. -/
theorem f64Round_eq (neg : Bool) (num den : Nat) : f64Round neg num den =
    f64Pack neg (roundPlace num den * 2 ^ 52 + nearestEven num (den * 2 ^ roundPlace num den)) := by
  unfold f64Round
  dsimp only
  rcases Nat.lt_or_ge (num / den) (2 ^ 2 ^ 12) with h | h
  · rw [topPlace_eq_log2 12 h, roundPlace]
  · have hl : 2 ^ 12 ≤ (num / den).log2 :=
      (Nat.le_log2 (Nat.lt_of_lt_of_le (by positivity) h).ne').mpr h
    have hk : 2047 ≤ roundPlace num den := by unfold roundPlace; omega
    rw [topPlace_of_ge 12 h, f64Pack_of_ge, f64Pack_of_ge (bits := roundPlace num den * 2 ^ 52 + _)] <;>
      unfold f64InfBits <;> omega

/-- The bounds of the rounded significand. -/
theorem round_significand (num den : Nat) :
    nearestEven num (den * 2 ^ roundPlace num den) ≤ 2 ^ 53 ∧
      (1 ≤ roundPlace num den → 2 ^ 52 ≤ nearestEven num (den * 2 ^ roundPlace num den)) := by
  set k := roundPlace num den with hk
  have hkd : k = (num / den).log2 - 52 := hk
  have hdiv : num / (den * 2 ^ k) = num / den / 2 ^ k := by rw [Nat.div_div_eq_div_mul]
  have hlt : num / den < 2 ^ ((num / den).log2 + 1) := Nat.lt_log2_self
  have hup : num / den / 2 ^ k < 2 ^ 53 := by
    rw [Nat.div_lt_iff_lt_mul (by positivity), ← pow_add]
    exact lt_of_lt_of_le hlt (Nat.pow_le_pow_right (by norm_num) (by omega))
  constructor
  · rcases nearestEven_cases num (den * 2 ^ k) with e | e <;> rw [e, hdiv] <;> omega
  · intro h1
    have hne : num / den ≠ 0 := by intro h0; rw [h0] at hkd; simp at hkd; omega
    have hge : 2 ^ (num / den).log2 ≤ num / den := Nat.log2_self_le hne
    have hlow : 2 ^ 52 ≤ num / den / 2 ^ k := by
      rw [Nat.le_div_iff_mul_le (by positivity), ← pow_add]
      have : 52 + k = (num / den).log2 := by omega
      rw [this]
      exact hge
    rcases nearestEven_cases num (den * 2 ^ k) with e | e <;> rw [e, hdiv] <;> omega

/-- The magnitude of a rounded value, where it does not overflow. -/
theorem f64Mag_round (neg : Bool) {num den : Nat} (h : roundPlace num den ≤ 2044) :
    f64Mag (f64Round neg num den) = nearestEven num (den * 2 ^ roundPlace num den) * 2 ^ roundPlace num den := by
  rw [f64Round_eq]
  exact f64Mag_pack neg (round_significand num den).1 (round_significand num den).2 h

@[simp] theorem f64Neg_round (neg : Bool) (num den : Nat) : f64Neg (f64Round neg num den) = neg := by
  rw [f64Round_eq, f64Neg_pack]

theorem f64Finite_round (neg : Bool) {num den : Nat} (h : roundPlace num den ≤ 2044) :
    f64Finite (f64Round neg num den) = true := by
  rw [f64Round_eq]
  apply f64Finite_pack
  have := (round_significand num den).1
  unfold f64InfBits
  have h2 : roundPlace num den * 2 ^ 52 ≤ 2044 * 2 ^ 52 := Nat.mul_le_mul_right _ h
  omega

/-- The error of one rounding: at most half a last place. -/
theorem f64Round_error (neg : Bool) {num den : Nat} (hd : 0 < den) (h : roundPlace num den ≤ 2044) :
    2 * (f64Mag (f64Round neg num den) * den) ≤ 2 * num + den * 2 ^ roundPlace num den ∧
      2 * num ≤ 2 * (f64Mag (f64Round neg num den) * den) + den * 2 ^ roundPlace num den := by
  rw [f64Mag_round neg h]
  have hd' : 0 < den * 2 ^ roundPlace num den := by positivity
  have e := nearestEven_error (num := num) hd'
  have : nearestEven num (den * 2 ^ roundPlace num den) * 2 ^ roundPlace num den * den =
      nearestEven num (den * 2 ^ roundPlace num den) * (den * 2 ^ roundPlace num den) := by ring
  rw [this]
  exact e

/-- Half a last place is at most 2^-53 of the value, but for values below the least normal one. -/
theorem roundPlace_le (num den : Nat) :
    den * 2 ^ roundPlace num den * 2 ^ 52 ≤ max num (den * 2 ^ 52) := by
  unfold roundPlace
  rcases Nat.lt_or_ge (num / den).log2 53 with h | h
  · have : (num / den).log2 - 52 = 0 := by omega
    rw [this]
    simp
  · have hne : num / den ≠ 0 := by intro h0; rw [h0] at h; simp at h
    have hge : 2 ^ (num / den).log2 ≤ num / den := Nat.log2_self_le hne
    have e : (num / den).log2 - 52 + 52 = (num / den).log2 := by omega
    rw [mul_assoc, ← pow_add, e]
    exact le_max_of_le_left ((Nat.mul_le_mul_left den hge).trans (Nat.mul_div_le num den))

end Sys2Proof.Machine
end

