-- ==== Sys2Proof/Laws/PerInstr.lean ====
section
/-! SUPPORT. A property of every instruction as syntax: its access is one the unit admits, 32 bits wide at a multiple
of 4 (20_memory.md R72, 30_encoding.md R92). One lemma per constructor. -/

namespace Sys2Proof.Laws

/-- The access an instruction is, is admitted. -/
def Admitted.Statement (i : Instr) : Prop := (encode i).admitted = true

theorem Admitted.nop : Admitted.Statement (.nop) := rfl
theorem Admitted.setQuality (imm : BitVec 16) : Admitted.Statement (.setQuality imm) := by
  simp [Admitted.Statement, encode, cmdAccess, writeAt, Access.admitted]
theorem Admitted.start : Admitted.Statement (.start) := rfl
theorem Admitted.block : Admitted.Statement (.block) := rfl
theorem Admitted.tail : Admitted.Statement (.tail) := rfl
theorem Admitted.stop : Admitted.Statement (.stop) := rfl
theorem Admitted.dispose : Admitted.Statement (.dispose) := rfl
theorem Admitted.rdId : Admitted.Statement (.rdId) := rfl
theorem Admitted.rdCapPix : Admitted.Statement (.rdCapPix) := rfl
theorem Admitted.rdCapOut : Admitted.Statement (.rdCapOut) := rfl
theorem Admitted.wrCmd (w : Word) : Admitted.Statement (.wrCmd w) := by
  simp [Admitted.Statement, encode, writeAt, Access.admitted]
theorem Admitted.rdCmd : Admitted.Statement (.rdCmd) := rfl
theorem Admitted.rdStatus : Admitted.Statement (.rdStatus) := rfl
theorem Admitted.wrStatus (v : Word) : Admitted.Statement (.wrStatus v) := by
  simp [Admitted.Statement, encode, writeAt, Access.admitted]
theorem Admitted.rdErrCode : Admitted.Statement (.rdErrCode) := rfl
theorem Admitted.rdIrqEn : Admitted.Statement (.rdIrqEn) := rfl
theorem Admitted.wrIrqEn (v : Word) : Admitted.Statement (.wrIrqEn v) := by
  simp [Admitted.Statement, encode, writeAt, Access.admitted]
theorem Admitted.rdQuality : Admitted.Statement (.rdQuality) := rfl
theorem Admitted.rdWidth : Admitted.Statement (.rdWidth) := rfl
theorem Admitted.wrWidth (v : Word) : Admitted.Statement (.wrWidth v) := by
  simp [Admitted.Statement, encode, writeAt, Access.admitted]
theorem Admitted.rdHeight : Admitted.Statement (.rdHeight) := rfl
theorem Admitted.wrHeight (v : Word) : Admitted.Statement (.wrHeight v) := by
  simp [Admitted.Statement, encode, writeAt, Access.admitted]
theorem Admitted.rdPixAddr : Admitted.Statement (.rdPixAddr) := rfl
theorem Admitted.wrPixAddr (v : Word) : Admitted.Statement (.wrPixAddr v) := by
  simp [Admitted.Statement, encode, writeAt, Access.admitted]
theorem Admitted.wrPixData (v : Word) : Admitted.Statement (.wrPixData v) := by
  simp [Admitted.Statement, encode, writeAt, Access.admitted]
theorem Admitted.rdPixData : Admitted.Statement (.rdPixData) := rfl
theorem Admitted.rdCurX : Admitted.Statement (.rdCurX) := rfl
theorem Admitted.rdCurY : Admitted.Statement (.rdCurY) := rfl
theorem Admitted.rdPixDone : Admitted.Statement (.rdPixDone) := rfl
theorem Admitted.rdPixTotal : Admitted.Statement (.rdPixTotal) := rfl
theorem Admitted.rdOutLen : Admitted.Statement (.rdOutLen) := rfl
theorem Admitted.rdOutAddr : Admitted.Statement (.rdOutAddr) := rfl
theorem Admitted.wrOutAddr (v : Word) : Admitted.Statement (.wrOutAddr v) := by
  simp [Admitted.Statement, encode, writeAt, Access.admitted]
theorem Admitted.rdOutData : Admitted.Statement (.rdOutData) := rfl
theorem Admitted.rdPredY : Admitted.Statement (.rdPredY) := rfl
theorem Admitted.rdPredCb : Admitted.Statement (.rdPredCb) := rfl
theorem Admitted.rdPredCr : Admitted.Statement (.rdPredCr) := rfl
theorem Admitted.rdBitacc : Admitted.Statement (.rdBitacc) := rfl
theorem Admitted.rdQtY (k : BitVec 6) : Admitted.Statement (.rdQtY k) := by
  revert k; unfold Admitted.Statement; decide
theorem Admitted.rdQtC (k : BitVec 6) : Admitted.Statement (.rdQtC k) := by
  revert k; unfold Admitted.Statement; decide

end Sys2Proof.Laws
end

