-- ==== Sys2Proof/Laws/Transform.lean ====
section
/-! SUPPORT. The transform of a constant block, and what each step of the transform computes entry by entry. -/

namespace Sys2Proof.Machine

@[simp] theorem pick_replicate {α : Type} {n i : Nat} (h : i < n) (x d : α) : pick (Vector.replicate n x) i d = x := by
  simp [pick, h]

theorem replicate_eq_tabulate {α : Type} (n : Nat) (x : α) : Vector.replicate n x = tabulate n fun _ => x := by
  refine buffer_ext x fun i hi => ?_
  rw [pick_replicate hi, pick_tabulate hi]

theorem tabulate_congr {α : Type} {n : Nat} {f g : Nat → α} (h : ∀ i, i < n → f i = g i) : tabulate n f = tabulate n g := by
  refine Vector.ext fun i hi => ?_
  rw [← pick_eq_getElem _ hi (f i), ← pick_eq_getElem _ hi (f i), pick_tabulate hi, pick_tabulate hi, h i hi]

theorem sampleBuffer_replicate (conv : Word → F64) (p : Word) :
    sampleBuffer conv (Vector.replicate 64 p) = Vector.replicate 64 (conv p) := by
  refine buffer_ext 0#64 fun i hi => ?_
  rw [sampleBuffer, pick_tabulate hi, pick_replicate hi, pick_replicate hi]

/-- One AAN pass reads its inputs 0 to 7 alone. -/
theorem aanPass_congr {x y : Nat → F64} (h : ∀ k, k < 8 → x k = y k) : aanPass x = aanPass y := by
  rw [aanPass, aanPass, h 0 (by omega), h 1 (by omega), h 2 (by omega), h 3 (by omega), h 4 (by omega),
    h 5 (by omega), h 6 (by omega), h 7 (by omega)]

/-- Two rounds of passes over rows and then columns, entry by entry, for any pass that reads its inputs 0 to 7 alone. -/
theorem pick_two_passes (pass : (Nat → F64) → Vector F64 8)
    (hp : ∀ x y : Nat → F64, (∀ k, k < 8 → x k = y k) → pass x = pass y) (d : Vector F64 64) {i : Nat} (hi : i < 64) :
    pick (tabulate 64 fun i => pick (pick (tabulate 8 fun c => pass fun k =>
        pick (pick (tabulate 8 fun r => pass fun j => pick d (8 * r + j) 0#64) k (Vector.replicate 8 0#64)) c 0#64)
      (i % 8) (Vector.replicate 8 0#64)) (i / 8) 0#64) i 0#64 =
      pick (pass fun k => pick (pass fun j => pick d (8 * k + j) 0#64) (i % 8) 0#64) (i / 8) 0#64 := by
  rw [pick_tabulate hi, pick_tabulate (by omega)]
  exact congrArg (pick · (i / 8) 0#64) (hp _ _ fun k hk => by rw [pick_tabulate hk])

/-- Entry r*8 + c of the transform: entry r of the pass over column c of the row passes. -/
theorem pick_forwardDct {i : Nat} (hi : i < 64) (d : Vector F64 64) :
    pick (forwardDct d) i 0#64 =
      pick (aanPass fun k => pick (aanPass fun j => pick d (8 * k + j) 0#64) (i % 8) 0#64) (i / 8) 0#64 :=
  pick_two_passes aanPass (fun _ _ => aanPass_congr) d hi

/-- The transform of a constant block is one row pass and, for each column, one column pass. -/
theorem forwardDct_replicate (x : F64) :
    forwardDct (Vector.replicate 64 x) =
      tabulate 64 fun i => pick (aanPass fun _ => pick (aanPass fun _ => x) (i % 8) 0#64) (i / 8) 0#64 := by
  have h : ∀ (pass : (Nat → F64) → Vector F64 8) (_ : ∀ x y : Nat → F64, (∀ k, k < 8 → x k = y k) → pass x = pass y)
      (c r : Nat), pick (pass fun k => pick (pass fun j => pick (Vector.replicate 64 x) (8 * k + j) 0#64) c 0#64) r 0#64 =
        pick (pass fun _ => pick (pass fun _ => x) c 0#64) r 0#64 := fun pass hp c r =>
    congrArg (pick · r 0#64) (hp _ _ fun k hk =>
      congrArg (pick · c 0#64) (hp _ _ fun j hj => pick_replicate (by omega) _ _))
  refine buffer_ext 0#64 fun i hi => ?_
  rw [pick_forwardDct hi, pick_tabulate hi]
  exact h aanPass (fun _ _ => aanPass_congr) (i % 8) (i / 8)

theorem transform_ok {fd samples : Vector F64 64} {coef : Vector Int 64} (h : quantize fd (forwardDct samples) = .ok coef) :
    transform fd samples = .ok (reorder coef) := by
  rw [transform, h, andThen_ok]

/-- The data units of a block, from its words and their transforms. -/
theorem blockUnits_ok {s : State} {words : Vector Word 64} {y cb cr : Vector Int 64} (h : fetchWords s = .ok words)
    (hy : transform s.fdY (sampleBuffer lumaOf words) = .ok y) (hb : transform s.fdC (sampleBuffer cbOf words) = .ok cb)
    (hr : transform s.fdC (sampleBuffer crOf words) = .ok cr) : blockUnits s = .ok (y, cb, cr) := by
  rw [blockUnits, h, andThen_ok, hy, andThen_ok, hb, andThen_ok, hr, andThen_ok]

end Sys2Proof.Machine
end

