-- ==== Sys2Proof/Tests/Slice0.lean ====
section
/-! SUPPORT. The model's own tests: their expected results are the spec's worked examples (95_test_vectors.md and the
examples of the rules) or hand calculations from the rules. And for every statement with hypotheses, a state or
operands that meet them. -/

namespace Sys2Proof.Tests

open Sys2Proof.Machine

-- One proof after another: each waiting proof would hold a thread's stack, and the check limits the memory.
set_option Elab.async false

/-! ## Small states -/

/-- Parameters of a small realisation: 64 pixel words, 2048 output bytes. -/
def par0 : Params := { maxPixels := 64, maxOut := 2048, resetQuality := 50#8, tailPad := .none }

/-- Its reset state. -/
def res0 : State := State.resetWith par0

/-- Sixty-four grey pixels. -/
def grey : Memory := (List.range 64).map fun i => (i, 0xFF808080#32)

/-- P1 of 95_test_vectors.md before START: an 8 by 8 grey image is loaded. -/
def idle8 : State := { res0 with width := 8#16, height := 8#16, pix := grey, pixAddr := 64#32 }

/-- P1 after START. -/
def run8 : State :=
  { idle8 with running := true, pixTotal := 64#32, wr := { Writer.reset with out := headerBytes idle8 } }

/-- P1 after BLOCK: the byte 28 went out and the bits 00 are pending. -/
def due8 : State :=
  { run8 with
    consumed := true
    curY := 8#32
    pixDone := 64#32
    wr := { Writer.reset with out := headerBytes idle8 ++ [0x28#8], bytePos := 1#3 } }

/-- An idle state whose output is three bytes. -/
def out3 : State := { res0 with complete := true, wr := { Writer.reset with out := [0xAA#8, 0x00#8, 0xFF#8] } }

/-- The state the instruction leaves, looked at through `f`. -/
def seen {α : Type} (f : State → α) (i : Instr) (s : State) : Option α :=
  match exec i s with
  | .next t => some (f t)
  | .fault _ => none
  | .refused _ => none

/-- The same for a step whose next event is `e`. -/
def seenStep {α : Type} (f : State → α) (e : Event) (s : State) : Option α :=
  match step (place e s) with
  | .next t => some (f t)
  | .fault _ => none
  | .refused _ => none

/-! ## Well-formedness: the one check -/

/-- A CMD write with a legal word is that command, not the term `wrCmd` (30_encoding.md R93): NOP, SET_QUALITY, DISPOSE. -/
theorem test_wellFormed_refuses_legal_words :
    WellFormed (.wrCmd 0x00000000#32) = false ∧ WellFormed (.wrCmd 0x004B0001#32) = false ∧
      WellFormed (.wrCmd 0x00000006#32) = false := by decide

/-- The ILLEGAL examples of V-K1, and the first reserved opcode. -/
theorem test_wellFormed_takes_illegal_words :
    WellFormed (.wrCmd 0x00000107#32) = true ∧ WellFormed (.wrCmd 0x00010002#32) = true ∧
      WellFormed (.wrCmd 0x00000101#32) = true ∧ WellFormed (.wrCmd 0x00000007#32) = true := by decide

/-! ## Decoding: a word or an offset for every constructor, from 30_encoding.md R93, V-K1 and 10_state.md R43 -/

/-- The seven commands. -/
theorem test_decode_commands :
    decodeCmd 0x00000000#32 = some .nop ∧ decodeCmd 0x004B0001#32 = some (.setQuality 75#16) ∧
    decodeCmd 0xFFFF0001#32 = some (.setQuality 0xFFFF#16) ∧ decodeCmd 0x00000002#32 = some .start ∧
    decodeCmd 0x00000003#32 = some .block ∧ decodeCmd 0x00000004#32 = some .tail ∧
    decodeCmd 0x00000005#32 = some .stop ∧ decodeCmd 0x00000006#32 = some .dispose := by decide

/-- The ILLEGAL words of V-K1: a reserved opcode, a format-C command with an operand, reserved bits set. -/
theorem test_decode_illegal :
    decodeCmd 0x00000107#32 = none ∧ decodeCmd 0x00010002#32 = none ∧ decodeCmd 0x00000101#32 = none ∧
      decodeCmd 0x00000007#32 = none ∧ decodeCmd 0x000000FF#32 = none := by decide

/-- CMD writes decode to the command. -/
theorem test_decode_command_writes :
    decode (writeAt 0x010#12 0x00000000#32) = .instr .nop ∧
    decode (writeAt 0x010#12 0x000A0001#32) = .instr (.setQuality 10#16) ∧
    decode (writeAt 0x010#12 0x00000002#32) = .instr .start ∧
    decode (writeAt 0x010#12 0x00000003#32) = .instr .block ∧
    decode (writeAt 0x010#12 0x00000004#32) = .instr .tail ∧
    decode (writeAt 0x010#12 0x00000005#32) = .instr .stop ∧
    decode (writeAt 0x010#12 0x00000006#32) = .instr .dispose := by decide

/-- Reads, offsets 0x000 to 0x02C. -/
theorem test_decode_reads_low :
    decode (readAt 0x000#12) = .instr .rdId ∧ decode (readAt 0x004#12) = .instr .rdCapPix ∧
    decode (readAt 0x008#12) = .instr .rdCapOut ∧ decode (readAt 0x010#12) = .instr .rdCmd ∧
    decode (readAt 0x014#12) = .instr .rdStatus ∧ decode (readAt 0x018#12) = .instr .rdErrCode ∧
    decode (readAt 0x01C#12) = .instr .rdIrqEn ∧ decode (readAt 0x020#12) = .instr .rdQuality ∧
    decode (readAt 0x024#12) = .instr .rdWidth ∧ decode (readAt 0x028#12) = .instr .rdHeight ∧
    decode (readAt 0x02C#12) = .instr .rdPixAddr := by decide

/-- Reads, offsets 0x030 to 0x05C. -/
theorem test_decode_reads_high :
    decode (readAt 0x030#12) = .instr .rdPixData ∧ decode (readAt 0x034#12) = .instr .rdCurX ∧
    decode (readAt 0x038#12) = .instr .rdCurY ∧ decode (readAt 0x03C#12) = .instr .rdPixDone ∧
    decode (readAt 0x040#12) = .instr .rdPixTotal ∧ decode (readAt 0x044#12) = .instr .rdOutLen ∧
    decode (readAt 0x048#12) = .instr .rdOutAddr ∧ decode (readAt 0x04C#12) = .instr .rdOutData ∧
    decode (readAt 0x050#12) = .instr .rdPredY ∧ decode (readAt 0x054#12) = .instr .rdPredCb ∧
    decode (readAt 0x058#12) = .instr .rdPredCr ∧ decode (readAt 0x05C#12) = .instr .rdBitacc := by decide

/-- The table windows at both ends. -/
theorem test_decode_windows :
    decode (readAt 0x100#12) = .instr (.rdQtY 0#6) ∧ decode (readAt 0x1FC#12) = .instr (.rdQtY 63#6) ∧
      decode (readAt 0x200#12) = .instr (.rdQtC 0#6) ∧ decode (readAt 0x2FC#12) = .instr (.rdQtC 63#6) := by decide

/-- The eight writes. -/
theorem test_decode_writes :
    decode (writeAt 0x010#12 0x00000107#32) = .instr (.wrCmd 0x00000107#32) ∧
    decode (writeAt 0x014#12 0x100#32) = .instr (.wrStatus 0x100#32) ∧
    decode (writeAt 0x01C#12 3#32) = .instr (.wrIrqEn 3#32) ∧
    decode (writeAt 0x024#12 8#32) = .instr (.wrWidth 8#32) ∧
    decode (writeAt 0x028#12 9#32) = .instr (.wrHeight 9#32) ∧
    decode (writeAt 0x02C#12 4096#32) = .instr (.wrPixAddr 4096#32) ∧
    decode (writeAt 0x030#12 0xFF808080#32) = .instr (.wrPixData 0xFF808080#32) ∧
    decode (writeAt 0x048#12 5#32) = .instr (.wrOutAddr 5#32) := by decide

/-- Reserved offsets at their bounds read as such, and writes to them and to read-only registers are ignored (R57, R131). -/
theorem test_decode_reserved :
    decode (readAt 0x00C#12) = .reservedRead ∧ decode (readAt 0x060#12) = .reservedRead ∧
    decode (readAt 0x0FC#12) = .reservedRead ∧ decode (readAt 0x300#12) = .reservedRead ∧
    decode (readAt 0xFFC#12) = .reservedRead ∧ decode (writeAt 0x000#12 1#32) = .ignoredWrite ∧
    decode (writeAt 0x2FC#12 1#32) = .ignoredWrite ∧ decode (writeAt 0xFFC#12 1#32) = .ignoredWrite := by decide

/-- Accesses that are not admitted (20_memory.md R72): 16 bits wide, and at offset 0x012. -/
theorem test_decode_inadmissible :
    decode { kind := .read, off := 0x014#12, size := 2, data := 0#32 } = .reject .width ∧
      decode { kind := .read, off := 0x012#12, size := 4, data := 0#32 } = .reject .misaligned := by decide

/-- Rows of spec/opcode_table.json as words: a command, SET_QUALITY's 16 bits, a read, a window (log entry 11). -/
theorem test_decode_table_words :
    decodeTableWord 32 0x00000003 = some .block ∧ decodeTableWord 16 0x0001 = some (.setQuality 0#16) ∧
      decodeTableWord 16 0x0014 = some .rdStatus ∧ decodeTableWord 16 0x01FC = some (.rdQtY 63#6) := by decide

/-- The next step after placing a row's word runs it: START on the reset state, with its WIDTH of 0, records
START_NO_SOURCE (P4, line 1). -/
theorem test_withFetchWord_runs_start :
    (match step (State.withFetchWord res0 32 0x00000002) with
      | .next t => some (t.wr.err, t.wr.errCode)
      | .fault _ => none
      | .refused _ => none) = some (true, 2#8) := by decide

/-! ## Commands -/

/-- 40_commands.md R110. -/
theorem test_nop : seen (fun t => (t.running, t.wr.err)) .nop res0 = some (false, false) := by decide

/-- 40_commands.md R111: idle, SET_QUALITY 75 gives Q_ACT 75 and QT_Y[0] = 8; then, in a session, 10 is deferred. -/
theorem test_set_quality :
    seen (fun t => (t.qAct, t.qPend, t.qPending, pick t.qtY 0 0#8)) (.setQuality 75#16) res0 =
        some (75#8, 75#8, false, 8#8) ∧
      seen (fun t => (t.qAct, t.qPend, t.qPending, pick t.qtY 0 0#8)) (.setQuality 10#16) run8 =
        some (50#8, 10#8, true, 16#8) := by decide +kernel

/-- 40_commands.md R111: 0, -1 and -32768 give 1; 101 and 32767 give 100. -/
theorem test_set_quality_clamps :
    qualityOperand 0#16 = 1#8 ∧ qualityOperand 0xFFFF#16 = 1#8 ∧ qualityOperand 0x8000#16 = 1#8 ∧
      qualityOperand 101#16 = 100#8 ∧ qualityOperand 0x7FFF#16 = 100#8 := by decide

/-- The header of an 8 by 8 image at quality 50 leaves OUT with 607 bytes, RUNNING set and PIX_TOTAL 64 (R112). -/
theorem test_start :
    exec .start idle8 = .next run8 := by
  have h := emitRaws_room (cap := 2048) (headerBytes idle8) { Writer.reset with out := [], ovf := false }
    (by rw [headerBytes_length]; decide)
  show Host.Outcome.next
    { openSession idle8 with
      wr := resetAccumulator (emitRaws 2048 (headerBytes idle8) { Writer.reset with out := [], ovf := false })
      running := true } = _
  rw [h]
  rfl

/-- Every sample of a grey block: -1.4210854715202004e-14 for Y (V-C1), 0 for Cb and Cr. -/
theorem test_grey_samples :
    lumaOf 0xFF808080#32 = 0xBD10000000000000#64 ∧ cbOf 0xFF808080#32 = 0#64 ∧ crOf 0xFF808080#32 = 0#64 := by
  decide +kernel

/-- A row pass over eight equal samples of -2^-46: only y[0] = 8 times the sample is not zero (R167). -/
theorem test_grey_row : (aanPass fun _ => 0xBD10000000000000#64) =
    #v[0xBD40000000000000#64, 0#64, 0#64, 0#64, 0#64, 0#64, 0#64, 0#64] := by decide +kernel

/-- The column pass over the row DCs, -2^-43. -/
theorem test_grey_column : (aanPass fun _ => 0xBD40000000000000#64) =
    #v[0xBD70000000000000#64, 0#64, 0#64, 0#64, 0#64, 0#64, 0#64, 0#64] := by decide +kernel

/-- A pass over zeros gives zeros. -/
theorem test_zero_pass : (aanPass fun _ => 0#64) = Vector.replicate 8 0#64 := by decide +kernel

/-- Sixty-four zero coefficients. -/
def zeroUnit : Vector Int 64 := Vector.replicate 64 0

/-- The transform of the grey block's Y: only DATA[0], 64 times the sample, is not zero (V-D1). -/
theorem test_grey_dct : forwardDct (Vector.replicate 64 0xBD10000000000000#64) =
    tabulate 64 fun i => if i = 0 then 0xBD70000000000000#64 else 0#64 := by
  rw [forwardDct_replicate, test_grey_row]
  refine tabulate_congr fun i hi => ?_
  have hc : i % 8 < 8 := Nat.mod_lt _ (by decide)
  have h0 : ∀ c, c < 8 → pick #v[0xBD40000000000000#64, 0#64, 0#64, 0#64, 0#64, 0#64, 0#64, 0#64] c 0#64 =
      if c = 0 then 0xBD40000000000000#64 else 0#64 := by decide
  have h1 : ∀ r, r < 8 → pick #v[0xBD70000000000000#64, 0#64, 0#64, 0#64, 0#64, 0#64, 0#64, 0#64] r 0#64 =
      if r = 0 then 0xBD70000000000000#64 else 0#64 := by decide
  rw [h0 _ hc]
  by_cases hz : i % 8 = 0
  · rw [if_pos hz, test_grey_column, h1 _ (by omega)]
    by_cases hr : i / 8 = 0
    · rw [if_pos hr, if_pos (by omega)]
    · rw [if_neg hr, if_neg (by omega)]
  · rw [if_neg hz, test_zero_pass, pick_replicate (by omega), if_neg (by omega)]

/-- The transform of zeros is zeros. -/
theorem test_zero_dct : forwardDct (Vector.replicate 64 0#64) = Vector.replicate 64 0#64 := by
  rw [forwardDct_replicate, test_zero_pass, replicate_eq_tabulate 64]
  refine tabulate_congr fun i hi => ?_
  have hc : i % 8 < 8 := Nat.mod_lt _ (by decide)
  rw [pick_replicate hc, test_zero_pass, pick_replicate (by omega)]

/-- At quality 50 every coefficient of the grey block quantizes to 0 (P1). -/
theorem test_grey_quantize_luma :
    quantize run8.fdY (tabulate 64 fun i => if i = 0 then 0xBD70000000000000#64 else 0#64) = .ok zeroUnit := by
  decide +kernel

theorem test_grey_quantize_chroma : quantize run8.fdC (Vector.replicate 64 0#64) = .ok zeroUnit := by
  decide +kernel

/-- Zero coefficients stay zero in zigzag order. -/
theorem test_reorder_zero : reorder zeroUnit = zeroUnit := by decide +kernel

/-- The data units of P1's one block: all zero. -/
theorem test_block_units : blockUnits run8 = .ok (zeroUnit, zeroUnit, zeroUnit) := by
  have h : fetchWords run8 = .ok (Vector.replicate 64 0xFF808080#32) := by decide +kernel
  have hy : transform run8.fdY (Vector.replicate 64 0xBD10000000000000#64) = .ok zeroUnit := by
    refine (transform_ok ?_).trans (congrArg Except.ok test_reorder_zero)
    exact (congrArg (quantize run8.fdY) test_grey_dct).trans test_grey_quantize_luma
  have hc : transform run8.fdC (Vector.replicate 64 0#64) = .ok zeroUnit := by
    refine (transform_ok ?_).trans (congrArg Except.ok test_reorder_zero)
    exact (congrArg (quantize run8.fdC) test_zero_dct).trans test_grey_quantize_chroma
  have hs : ∀ (conv : Word → F64) (x : F64), conv 0xFF808080#32 = x →
      sampleBuffer conv (Vector.replicate 64 0xFF808080#32) = Vector.replicate 64 x :=
    fun conv x hx => (sampleBuffer_replicate conv _).trans (congrArg (Vector.replicate 64) hx)
  exact blockUnits_ok h ((congrArg (transform run8.fdY) (hs _ _ test_grey_samples.1)).trans hy)
    ((congrArg (transform run8.fdC) (hs _ _ test_grey_samples.2.1)).trans hc)
    ((congrArg (transform run8.fdC) (hs _ _ test_grey_samples.2.2)).trans hc)

/-- P1's BLOCK sends `00 1010`, `00 00`, `00 00`: the byte 28 goes out, and 00 stays pending with BYTE_POS = 1. -/
theorem test_block_codes : codeUnits run8 zeroUnit zeroUnit zeroUnit = .ok due8.wr := by decide +kernel

/-- P1's BLOCK completes. -/
theorem test_block : exec .block run8 = .next (closeBlock zeroUnit zeroUnit zeroUnit due8.wr run8) := by
  have h : cursorInImage run8 = true := by decide
  show execBlock run8 = _
  rw [execBlock, if_neg (by decide), if_neg (by decide), if_neg (by rw [h]; decide)]
  exact encodeBlock_ok test_block_units test_block_codes

/-- P1 after BLOCK: STATUS reads 0x00000003, CUR_X 0, CUR_Y 8, PIX_DONE 64, the predictors 0. -/
theorem test_block_state :
    let t := closeBlock zeroUnit zeroUnit zeroUnit due8.wr run8
    statusWord t = 0x00000003#32 ∧ t.curX = 0#32 ∧ t.curY = 8#32 ∧ t.pixDone = 64#32 ∧ t.predY = 0 := by
  decide +kernel

/-- P1 after TAIL: the entropy bytes end 28 03 FF D9, BITACC is 0x700, STATUS 0x00010024, PIX_DONE stays 64. -/
theorem test_tail :
    seen (fun t => (t.wr.out.drop 607, t.wr.byteNew, t.wr.bytePos, statusWord t, t.pixDone)) .tail due8 =
      some ([0x28#8, 0x03#8, 0xFF#8, 0xD9#8], 0x00#8, 7#3, 0x00010024#32, 64#32) := by decide +kernel

/-- P1 with TAIL_PAD_WHEN_ALIGNED: with no bits pending, `full_byte` writes FF 00 before EOI and `none` nothing (R266). -/
theorem test_tail_aligned :
    seen (fun t => t.wr.out) .tail { res0 with running := true, consumed := true } = some [0xFF#8, 0xD9#8] ∧
      seen (fun t => t.wr.out) .tail
        { res0 with running := true, consumed := true, par := { par0 with tailPad := .fullByte } } =
        some [0xFF#8, 0x00#8, 0xFF#8, 0xD9#8] := by decide +kernel

/-- TAIL applies a pending quality (40_commands.md R117; V-Q1: quality 10 has QT_Y[0] = 80). -/
theorem test_tail_applies_quality :
    seen (fun t => (t.qAct, t.qPending, pick t.qtY 0 0#8)) .tail { due8 with qPend := 10#8, qPending := true } =
      some (10#8, false, 80#8) := by decide +kernel

/-- P3's STOP: TRUNCATED, the deferred quality applied (QT_C[0] = 85), the accumulator and the output kept. -/
theorem test_stop :
    seen (fun t => (statusWord t, t.qAct, pick t.qtC 0 0#8, t.wr.bytePos, t.wr.out.length)) .stop
      { run8 with qPend := 10#8, qPending := true, wr := { run8.wr with bytePos := 6#3 } } =
      some (0x00000028#32, 10#8, 85#8, 6#3, 607) := by decide +kernel

/-- V-K6: STOP while idle changes nothing. -/
theorem test_stop_idle : seen (fun t => (statusWord t, t.wr.err)) .stop res0 = some (0x00000020#32, false) := by decide

/-- V-K5: DISPOSE empties the output; during a session it changes nothing. -/
theorem test_dispose :
    seen (fun t => (statusWord t, t.wr.out)) .dispose out3 = some (0x00000020#32, []) ∧
      seen (fun t => t.wr.out.length) .dispose run8 = some 607 := by decide +kernel

/-! ## Errors: P4 of 95_test_vectors.md -/

/-- P4 lines 2, 4, 7: NOT_RUNNING, ILLEGAL_CMD, START_TOO_LARGE. -/
theorem test_errors_idle :
    seen (fun t => (statusWord t, t.wr.errCode)) .block res0 = some (0x00000120#32, 4#8) ∧
    seen (fun t => (statusWord t, t.wr.errCode)) (.wrCmd 0x00010002#32) res0 = some (0x00000120#32, 7#8) ∧
    seen (fun t => (statusWord t, t.wr.errCode)) .start { idle8 with width := 9#16 } = some (0x00000120#32, 3#8) := by
  decide

/-- P4 lines 8 to 11: TAIL_EARLY, CFG_RUNNING, START_RUNNING, BLOCK_CONSUMED; a second error keeps the first code. -/
theorem test_errors_running :
    seen (fun t => (statusWord t, t.wr.errCode)) .tail run8 = some (0x00000101#32, 6#8) ∧
    seen (fun t => (statusWord t, t.wr.errCode, t.width)) (.wrWidth 16#32) run8 = some (0x00000101#32, 8#8, 8#16) ∧
    seen (fun t => (statusWord t, t.wr.errCode)) .start (withError 6#8 run8) = some (0x00000301#32, 6#8) ∧
    seen (fun t => (statusWord t, t.wr.errCode)) .block due8 = some (0x00000103#32, 5#8) := by decide

/-- P4 line 6 and its neighbour: PIX_RANGE at PIX_ADDR = MAX_PIXELS, and the last word below it is stored. -/
theorem test_pix_range :
    seen (fun t => (t.wr.errCode, t.pixAddr, t.pix)) (.wrPixData 0#32) { res0 with pixAddr := 64#32 } =
        some (9#8, 64#32, []) ∧
      seen (fun t => (t.wr.errCode, t.pixAddr, t.pix)) (.wrPixData 5#32) { res0 with pixAddr := 63#32 } =
        some (0#8, 64#32, [(63, 5#32)]) := by decide

/-- P6: with the output RAM full, TAIL drops EOI, sets OVF and records OUT_OVERFLOW; the session still completes. -/
theorem test_overflow :
    seen (fun t => (statusWord t, t.wr.errCode, t.wr.out.length)) .tail
      { due8 with par := { par0 with maxOut := 609 } } = some (0x00010134#32, 10#8, 609) := by decide +kernel

/-! ## Registers -/

/-- V-K2: what the registers read after reset. -/
theorem test_reset_reads :
    seen State.rdata .rdId res0 = some 0x4A504547#32 ∧ seen State.rdata .rdStatus res0 = some 0x00000020#32 ∧
    seen State.rdata .rdQuality res0 = some 0x00003232#32 ∧ seen State.rdata .rdBitacc res0 = some 0x00000700#32 ∧
    seen State.rdata (.rdQtY 0#6) res0 = some 16#32 ∧ seen State.rdata (.rdQtC 0#6) res0 = some 17#32 ∧
    seen State.rdata .rdCapPix res0 = some 64#32 ∧ seen State.rdata .rdCapOut res0 = some 2048#32 ∧
    seen State.rdata .rdErrCode res0 = some 0#32 ∧ seen State.rdata .rdIrqEn res0 = some 0#32 := by decide +kernel

/-- V-Q2: the ends of the windows at quality 50. -/
theorem test_window_reads :
    seen State.rdata (.rdQtY 15#6) res0 = some 40#32 ∧ seen State.rdata (.rdQtY 63#6) res0 = some 99#32 ∧
      seen State.rdata (.rdQtC 10#6) res0 = some 99#32 ∧ seen State.rdata (.rdQtC 11#6) res0 = some 66#32 := by
  decide +kernel

/-- V-K3: STATUS by state. -/
theorem test_status_values :
    statusWord run8 = 0x00000001#32 ∧ statusWord due8 = 0x00000003#32 ∧ statusWord out3 = 0x00000024#32 ∧
      statusWord { res0 with truncated := true } = 0x00000028#32 ∧
      statusWord { out3 with wr := { out3.wr with ovf := true } } = 0x00000034#32 := by decide

/-- P2's predictors read in two's complement: -52, -38, 113. -/
theorem test_pred_reads :
    seen State.rdata .rdPredY { res0 with predY := -52 } = some 0xFFFFFFCC#32 ∧
      seen State.rdata .rdPredCb { res0 with predCb := -38 } = some 0xFFFFFFDA#32 ∧
      seen State.rdata .rdPredCr { res0 with predCr := 113 } = some 0x00000071#32 := by decide

/-- P3 and P5: QUALITY 0x00010A32 with a deferred quality, BITACC 0x000003C0. -/
theorem test_quality_and_bitacc_reads :
    seen State.rdata .rdQuality { res0 with qPend := 10#8, qPending := true } = some 0x00010A32#32 ∧
      seen State.rdata .rdBitacc { res0 with wr := { Writer.reset with byteNew := 0xC0#8, bytePos := 3#3 } } =
        some 0x000003C0#32 := by decide

/-- STATUS bit 8 clears the error record and bit 16 DONE_IP; other bits are ignored (40_commands.md R135). -/
theorem test_status_write :
    seen (fun t => (statusWord t, t.wr.errCode)) (.wrStatus 0x00000100#32) { withError 7#8 res0 with doneIp := true } =
        some (0x00010020#32, 0#8) ∧
      seen (fun t => (statusWord t, t.wr.errCode)) (.wrStatus 0xFFFEFEFF#32) { withError 7#8 res0 with doneIp := true } =
        some (0x00010120#32, 7#8) := by decide

/-- P4: with IRQ_EN = 2 an error raises IRQ; writing 1 to STATUS bit 8 lowers it (60_exceptions.md R318). -/
theorem test_irq :
    seen irqOut .start { res0 with irqEn := 2#2 } = some true ∧
      seen irqOut (.wrStatus 0x100#32) { withError 2#8 res0 with irqEn := 2#2 } = some false ∧
      seen irqOut (.wrIrqEn 0xFFFFFFFD#32) { res0 with doneIp := true } = some true := by decide

/-- Writes keep the low 16 bits of a size and all 32 of an address (40_commands.md R138, R142). -/
theorem test_config_writes :
    seen State.width (.wrWidth 0x12345678#32) res0 = some 0x5678#16 ∧
      seen State.height (.wrHeight 0xFFFF0009#32) res0 = some 9#16 ∧
      seen State.pixAddr (.wrPixAddr 0xFFFFFFFF#32) res0 = some 0xFFFFFFFF#32 ∧
      seen State.outAddr (.wrOutAddr 5#32) run8 = some 5#32 := by decide

/-- Progress reads of P1 after BLOCK; OUT_LEN reads 0 during a session and 3 after it (40_commands.md R140, R141). -/
theorem test_progress_reads :
    seen State.rdata .rdCurX due8 = some 0#32 ∧ seen State.rdata .rdCurY due8 = some 8#32 ∧
      seen State.rdata .rdPixDone due8 = some 64#32 ∧ seen State.rdata .rdPixTotal due8 = some 64#32 ∧
      seen State.rdata .rdOutLen due8 = some 0#32 ∧ seen State.rdata .rdOutLen out3 = some 3#32 := by decide

/-- Reads of the configuration and of the write-only registers (40_commands.md R133, R138, R139, R142). -/
theorem test_config_reads :
    seen State.rdata .rdWidth idle8 = some 8#32 ∧ seen State.rdata .rdHeight idle8 = some 8#32 ∧
      seen State.rdata .rdPixAddr idle8 = some 64#32 ∧ seen State.rdata .rdOutAddr { idle8 with outAddr := 7#32 } = some 7#32 ∧
      seen State.rdata .rdCmd { idle8 with rdata := 1#32 } = some 0#32 ∧
      seen State.rdata .rdPixData { idle8 with rdata := 1#32 } = some 0#32 := by decide

/-- 40_commands.md R144 and V-K4: a byte and an advance; past the end 0 and no advance; during a session the same. -/
theorem test_out_data :
    seen (fun t => (t.rdata, t.outAddr)) .rdOutData { out3 with outAddr := 2#32 } = some (0xFF#32, 3#32) ∧
      seen (fun t => (t.rdata, t.outAddr)) .rdOutData { out3 with outAddr := 3#32 } = some (0#32, 3#32) ∧
      seen (fun t => (t.rdata, t.outAddr)) .rdOutData { out3 with running := true } = some (0#32, 0#32) := by decide

/-- A readout of three bytes (40_commands.md R143). -/
theorem test_readout : (readBytes 3 out3).1 = [0xAA#32, 0x00#32, 0xFF#32] := by decide

/-- Reserved offsets read 0; a write to ERR_CODE is ignored; a reset in a session leads to EMPTY (R57, R131, R341). -/
theorem test_other_events :
    seenStep State.rdata (rd 0x0FC#12) { res0 with rdata := 9#32 } = some 0#32 ∧
      seenStep (fun t => t.wr.errCode) (wr 0x018#12 0#32) (withError 3#8 res0) = some 3#8 ∧
      seenStep (fun t => (statusWord t, t.wr.out, t.epoch)) .reset run8 = some (0x00000020#32, [], 1) := by decide +kernel

/-! ## The datapath, by the vectors of 95_test_vectors.md -/

/-- V-C1: white and red. -/
theorem test_color :
    lumaOf 0xFFFFFFFF#32 = f64OfNat 127 ∧ lumaOf 0xFF000000#32 = fneg (f64OfNat 128) ∧
      crOf 0xFFFF0000#32 = f64Lit 1275 10 ∧ lumaOf 0x00FF0000#32 = lumaOf 0xFFFF0000#32 := by decide +kernel

/-- V-Q5: FD_Y[0] = 0.0078125 at quality 50 and 0.125 at quality 100, FD_Y[1] = 0.008192725251981756 at quality 50. -/
theorem test_scaling_entries :
    pick (scaleTable (quantTable yqt 50)) 0 0#64 = f64Lit 78125 10000000 ∧
      pick (scaleTable (quantTable yqt 100)) 0 0#64 = f64Lit 125 1000 ∧
      pick (scaleTable (quantTable yqt 50)) 1 0#64 = f64Lit 8192725251981756 1000000000000000000 := by decide +kernel

/-- V-Q1: scale factors, and the first and last entries at quality 49. -/
theorem test_scale_factor :
    scaleFactor 1 = 5000 ∧ scaleFactor 49 = 102 ∧ scaleFactor 50 = 100 ∧ scaleFactor 75 = 50 ∧ scaleFactor 100 = 0 ∧
      pick (quantTable yqt 49) 0 0#8 = 16#8 ∧ pick (quantTable cqt 49) 63 0#8 = 101#8 := by decide +kernel

/-- V-D2: one row pass over 0, 1, ..., 7: y[0] = 28, y[1] = -25.274142364, y[4] = 0; the column pass of eight equal rows
multiplies the row's first entry by 8, which is exact. -/
theorem test_ramp_row :
    pick (aanPass fun k => f64OfNat k) 0 0#64 = f64OfNat 28 ∧
      fmul (f64OfNat 8) (pick (aanPass fun k => f64OfNat k) 1 0#64) = fneg (f64Lit 202193138912 1000000000) ∧
      f64Mag (pick (aanPass fun k => f64OfNat k) 4 0#64) = 0 := by decide +kernel

/-- V-R1. -/
theorem test_round_half_away :
    roundHalfAway (f64Lit 5 10) = 1 ∧ roundHalfAway (fneg (f64Lit 5 10)) = -1 ∧ roundHalfAway (f64Lit 15 10) = 2 ∧
      roundHalfAway (f64Lit 25 10) = 3 ∧ roundHalfAway (fneg (f64Lit 25 10)) = -3 ∧ roundHalfAway (f64Lit 625 10) = 63 ∧
      roundHalfAway 0x3FDFFFFFFFFFFFFF#64 = 0 := by decide +kernel

/-- binary64 ties go to even: 2^53 + 1 and 2^53 + 3 round to 2^53 and 2^53 + 4; 0.1 + 0.2 is 0x3FD3333333333334. -/
theorem test_ties_to_even :
    fadd (f64OfNat (2 ^ 53)) (f64OfNat 1) = f64OfNat (2 ^ 53) ∧
      fadd (f64OfNat (2 ^ 53 + 2)) (f64OfNat 1) = f64OfNat (2 ^ 53 + 4) ∧
      fadd (f64Lit 1 10) (f64Lit 2 10) = 0x3FD3333333333334#64 := by decide +kernel

/-- V-Z1: natural 1, 8, 7, 56 go to zigzag positions 1, 2, 28, 35. -/
theorem test_zigzag :
    entry zz 1 = 1 ∧ entry zz 8 = 2 ∧ entry zz 7 = 28 ∧ entry zz 56 = 35 ∧
      pick (reorder (tabulate 64 fun i => (i : Int))) 28 0 = 7 := by decide +kernel

/-- P5's last block: at (8, 8) of a 10 by 9 image every sample beyond column 9 or row 8 is clamped. -/
theorem test_edge_clamp :
    sampleIndex { res0 with width := 10#16, height := 9#16, curX := 8#32, curY := 8#32 } 0 = 88 ∧
      sampleIndex { res0 with width := 10#16, height := 9#16, curX := 8#32, curY := 8#32 } 63 = 89 ∧
      blockPixels { res0 with width := 10#16, height := 9#16, curX := 8#32, curY := 8#32 } = 2 := by decide

/-- P5: the cursor after BLOCK 1 and 4 of the 10 by 9 image. -/
theorem test_advance_cursor :
    nextCurX { res0 with width := 10#16, height := 9#16 } = 8#32 ∧
      (advanceCursor { res0 with width := 10#16, height := 9#16, curX := 8#32, curY := 8#32 }).curY = 16#32 ∧
      (advanceCursor { res0 with width := 10#16, height := 9#16, curX := 8#32, curY := 8#32 }).consumed = true := by
  decide

/-! ## Entropy coding and the bit writer -/

/-- V-E1. -/
theorem test_magnitude :
    category 0 = 0 ∧ (category (-3), magnitude (-3)) = (2, 0b00) ∧ (category 2, magnitude 2) = (2, 0b10) ∧
      (category (-2), magnitude (-2)) = (2, 0b01) ∧ (category (-1024), magnitude (-1024)) = (11, 0b01111111111) ∧
      (category (-2047), magnitude (-2047)) = (11, 0) := by decide +kernel

/-- 43_entropy.md R227: selected codes. -/
theorem test_codes :
    lookupCode (buildTable dcLuma) 11 = some { sym := 11, code := 0b111111110, len := 9 } ∧
    lookupCode (buildTable dcChroma) 3 = some { sym := 3, code := 0b110, len := 3 } ∧
    lookupCode (buildTable acLuma) 0xF0 = some { sym := 0xF0, code := 0b11111111001, len := 11 } ∧
    lookupCode (buildTable acLuma) 0xFA = some { sym := 0xFA, code := 0b1111111111111110, len := 16 } ∧
    lookupCode (buildTable acChroma) 0x0A = some { sym := 0x0A, code := 0b111111110100, len := 12 } ∧
    lookupCode (buildTable acChroma) 0x0B = none := by decide +kernel

/-- What a data unit sends from an empty accumulator: the bytes, BYTE_NEW and BYTE_POS. -/
def sent (dc ac : HuffSpec) (pred : Int) (du : Nat → Int) : Option (List Byte × Byte × BitVec 3) :=
  match codeUnit 2048 dc ac pred (tabulate 64 du) Writer.reset with
  | .ok w => some (w.out, w.byteNew, w.bytePos)
  | .error _ => none

/-- V-E2: a run of 16 before a value. -/
theorem test_data_unit_zrl :
    sent dcLuma acLuma 0 (fun k => if k = 0 then -3 else if k = 1 then 5 else if k = 3 then -1 else if k = 20 then 1 else 0) =
      some ([0x64#8, 0xB8#8, 0xFF#8, 0x00#8, 0x26#8], 0x80#8, 5#3) := by decide +kernel

/-- V-E4: a value at position 63 after a run of 62: three ZRLs, no EOB. -/
theorem test_data_unit_no_eob :
    sent dcLuma acLuma 0 (fun k => if k = 63 then -2 else 0) =
      some ([0x3F#8, 0xCF#8, 0xF9#8, 0xFF#8, 0x00#8, 0x3F#8, 0xFD#8], 0x88#8, 2#3) := by decide +kernel

/-- V-E6 and V-E7: a DC difference of -2040, stuffed; a chroma unit. -/
theorem test_data_unit_dc :
    sent dcLuma acLuma 1016 (fun k => if k = 0 then -1024 else 0) = some ([0xFF#8, 0x00#8, 0x00#8, 0x7A#8], 0x00#8, 7#3) ∧
      sent dcChroma acChroma 0 (fun k => if k ≤ 1 then 1 else 0) = some ([0x6C#8], 0x00#8, 7#3) := by decide +kernel

/-- V-B1, V-B3, V-B5. -/
theorem test_put_bits :
    sendBits 2048 4 0b1010 Writer.reset = { Writer.reset with byteNew := 0xA0#8, bytePos := 3#3 } ∧
      sendBits 2048 8 0xFF Writer.reset = { Writer.reset with out := [0xFF#8, 0x00#8] } ∧
      emitWord 2048 0x01A2#16 Writer.reset = { Writer.reset with out := [0x01#8, 0xA2#8] } := by decide

/-- V-B4: a padded byte of FF is stuffed; four pending bits A become AF. One pending bit 1 becomes FF by the pseudocode of
R266, not the BF of its worked example (log entry 21). -/
theorem test_pad :
    padToByte 2048 .none { Writer.reset with byteNew := 0xFC#8, bytePos := 1#3 } =
        .ok { Writer.reset with out := [0xFF#8, 0x00#8] } ∧
      padToByte 2048 .none { Writer.reset with byteNew := 0xA0#8, bytePos := 3#3 } =
        .ok { Writer.reset with out := [0xAF#8] } ∧
      padToByte 2048 .none { Writer.reset with byteNew := 0x80#8, bytePos := 6#3 } =
        .ok { Writer.reset with out := [0xFF#8, 0x00#8] } := by decide

/-- 45_framer.md R284: the SOF0 of a 37 by 21 image; V-F1: the first bytes of DQT and of DHT. -/
theorem test_header :
    sof0Bytes 37#16 21#16 = [0xFF#8, 0xC0#8, 0x00#8, 0x11#8, 0x08#8, 0x00#8, 0x15#8, 0x00#8, 0x25#8, 0x03#8, 0x01#8, 0x11#8,
      0x00#8, 0x02#8, 0x11#8, 0x01#8, 0x03#8, 0x11#8, 0x01#8] ∧
    ((headerBytes res0).drop 20).take 9 = [0xFF#8, 0xDB#8, 0x00#8, 0x84#8, 0x00#8, 0x10#8, 0x0B#8, 0x0C#8, 0x0E#8] ∧
    ((headerBytes res0).drop 173).take 9 = [0xFF#8, 0xC4#8, 0x01#8, 0xA2#8, 0x00#8, 0x00#8, 0x01#8, 0x05#8, 0x01#8] := by
  decide +kernel

/-! ## Witnesses: for every statement with hypotheses, something that meets them -/

theorem par0_wf : par0.wf = true := by decide

/-- The invariant holds in an idle state with an image loaded. -/
theorem witness_inv_idle : Inv idle8 where
  params := par0_wf
  lifecycle := by decide
  tables := ⟨rfl, rfl, rfl, rfl⟩
  pending := fun _ => rfl
  qualities := by unfold qualitiesInRange; decide
  cursor := by unfold cursorAligned; decide
  progress := by decide
  accum := by unfold accumulatorClear; decide
  error := by unfold errorRecordLegal; decide
  room := by decide
  pixels := by
    refine ⟨by decide +kernel, fun i v h => ?_⟩
    have hg : ∀ (l : List Nat), (∀ j ∈ l, j < 64) → ∀ i v,
        Memory.read (l.map fun i => (i, 0xFF808080#32)) i = some v → i < 64 := by
      intro l
      induction l with
      | nil => intro _ i v h; cases h
      | cons j l ih =>
        intro hl i v h
        simp only [List.map_cons, Memory.read] at h
        split at h
        · subst i; exact hl j (by simp)
        · exact ih (fun k hk => hl k (by simp [hk])) i v h
    exact hg (List.range 64) (fun j hj => List.mem_range.mp hj) i v h
  session := by intro h; cases h

/-- The invariant holds in a session with a block left. -/
theorem witness_inv_running : Inv run8 where
  params := par0_wf
  lifecycle := by decide
  tables := ⟨rfl, rfl, rfl, rfl⟩
  pending := fun _ => rfl
  qualities := by unfold qualitiesInRange; decide
  cursor := by unfold cursorAligned; decide
  progress := by decide
  accum := by unfold accumulatorClear; decide
  error := by unfold errorRecordLegal; decide
  room := by
    show (headerBytes idle8).length ≤ 2048
    rw [headerBytes_length]
    decide
  pixels := witness_inv_idle.pixels
  session := by
    intro _
    refine ⟨by decide, by decide, ?_, by decide, by decide⟩
    show (headerBytes idle8).take 607 = headerBytes run8
    rw [List.take_of_length_le (by rw [headerBytes_length])]
    exact headerBytes_congr rfl rfl rfl rfl

/-- StepKeepsTheInvariant, PredictorsStayInRange, ScanStaysStuffed, SessionFreezesTablesAndImage: a state of a running
session with all the premises, and a step of it. -/
theorem witness_session_step :
    Inv (place (cmd .nop) run8) ∧ predictorsInRange (place (cmd .nop) run8) ∧ scanSound (place (cmd .nop) run8) ∧
      step (place (cmd .nop) run8) = .next run8 ∧ run8.running = true := by
  refine ⟨⟨witness_inv_running.params, witness_inv_running.lifecycle, witness_inv_running.tables,
    witness_inv_running.pending, witness_inv_running.qualities, witness_inv_running.cursor, witness_inv_running.progress,
    witness_inv_running.accum, witness_inv_running.error, witness_inv_running.room, witness_inv_running.pixels,
    witness_inv_running.session⟩, ?_, ?_, rfl, rfl⟩
  · unfold predictorsInRange; decide
  · intro _
    have h : scanBytes (place (cmd .nop) run8) = [] := by
      unfold scanBytes
      rw [if_neg (by decide)]
      refine List.drop_of_length_le ?_
      show (headerBytes idle8).length ≤ 607
      rw [headerBytes_length]
    rw [h]
    rfl

/-- EveryAdmittedAccessCompletes: BLOCK in a session with a block left. -/
theorem witness_admitted : Inv run8 ∧ predictorsInRange run8 ∧ (cmdAccess .block).admitted = true :=
  ⟨witness_inv_running, by unfold predictorsInRange; decide, by decide⟩

/-- DecodeInvertsEncode, EncodeInvertsDecode, StepRunsTheDecodedInstruction. -/
theorem witness_decode :
    WellFormed (.wrCmd 0x00000107#32) = true ∧ decode (writeAt 0x010#12 0x00000107#32) = .instr (.wrCmd 0x00000107#32) ∧
      (place (.access (readAt 0x014#12)) res0).host = [.access (readAt 0x014#12)] ∧
      decode (readAt 0x014#12) = .instr .rdStatus ∧ res0.host = [] := by decide

/-- ReservedReadsReturnZero and WritesToReadOnlyOffsetsAreIgnored: the bounds of each range. -/
theorem witness_offsets :
    ([0x00C#12, 0x060#12, 0x0FC#12, 0x300#12, 0xFFC#12].all fun off => off.toNat % 4 == 0 && reservedOffset off) = true ∧
      ([0x000#12, 0x018#12, 0x05C#12, 0x100#12, 0x2FC#12].all fun off => off.toNat % 4 == 0 && readOnlyOffset off) = true := by
  decide

/-- ResetLeavesTheResetState and InvariantHoldsAtReset: parameters with quality 50 in their ranges, also at the least
MAX_PIXELS and MAX_OUT. -/
theorem witness_params :
    par0.resetQuality = 50#8 ∧ par0.wf = true ∧
      Params.wf { maxPixels := 1, maxOut := 611, resetQuality := 100#8, tailPad := .fullByte } = true := by decide

/-- SessionStateHasItsWriters and ConfigurationHasItsWriters: instructions that answer a next state, among them TAIL with
nothing pending, SET_QUALITY in a session, and writes in and out of a session. -/
theorem witness_writers :
    (seen State.running .nop run8).isSome = true ∧ (seen State.running .tail due8).isSome = true ∧ due8.qPending = false ∧
      (seen State.running (.setQuality 10#16) run8).isSome = true ∧ (seen State.running .dispose out3).isSome = true ∧
      (seen State.running (.wrPixData 0#32) run8).isSome = true ∧ (seen State.running (.wrWidth 0#32) idle8).isSome = true ∧
      WellFormed .tail = true := by decide +kernel

/-- FirstErrorStaysUntilCleared: a step with an error recorded, a reset, and a write of 1 to STATUS bit 8. -/
theorem witness_error :
    (withError 4#8 res0).wr.err = true ∧ (seenStep State.running (cmd .nop) (withError 4#8 res0)).isSome = true ∧
      (place .reset (withError 4#8 res0)).host.head? = some .reset ∧
      (place clrerr (withError 4#8 res0)).host.head? = some (.access (writeAt 0x014#12 0x100#32)) ∧
      (0x100#32 : Word).getLsbD 8 = true := by decide

/-- SetQualityAppliesOrDefers, StopTruncates, DisposeEmptiesTheOutput, SizeAndAddressRegisters: both sides of RUNNING. -/
theorem witness_running : run8.running = true ∧ res0.running = false := by decide

/-- StartOpensASession and UsageErrorsChangeOnlyTheErrorRecord: each check of START in turn, the largest image that fits
and the least that does not. -/
theorem witness_start :
    idle8.par.wf = true ∧ run8.running = true ∧
      (idle8.running = false ∧ idle8.width ≠ 0#16 ∧ idle8.height ≠ 0#16 ∧
        idle8.width.toNat * idle8.height.toNat = idle8.par.maxPixels) ∧
      ({ idle8 with width := 0#16 }.running = false ∧ { idle8 with width := 0#16 }.width = 0#16) ∧
      { idle8 with width := 13#16, height := 5#16 }.par.maxPixels < 13 * 5 := by decide

/-- UsageErrorsChangeOnlyTheErrorRecord, the other clauses. -/
theorem witness_usage_errors :
    res0.running = false ∧ (due8.running = true ∧ due8.consumed = true) ∧ (run8.running = true ∧ run8.consumed = false) ∧
      legalCommand 0x00000107#32 = false ∧ idle8.par.maxPixels ≤ idle8.pixAddr.toNat := by decide

/-- BlockCodesTheMcu and BlockAppendsAtMost1250Bytes: P1's block, with room for 1250 bytes. -/
theorem witness_block :
    run8.running = true ∧ run8.consumed = false ∧ run8.curX.toNat < run8.width.toNat ∧
      run8.curY.toNat < run8.height.toNat ∧ blockUnits run8 = .ok (zeroUnit, zeroUnit, zeroUnit) ∧
      codable run8.predY zeroUnit ∧ codable run8.predCb zeroUnit ∧ codable run8.predCr zeroUnit ∧
      codeUnits run8 zeroUnit zeroUnit zeroUnit = .ok due8.wr ∧ run8.wr.out.length + 1250 ≤ run8.par.maxOut := by
  have h : codable 0 zeroUnit := by
    refine ⟨by decide, fun k _ hk => ?_⟩
    rw [zeroUnit, pick_replicate hk]
    decide
  refine ⟨rfl, rfl, by decide, by decide, test_block_units, h, h, h, test_block_codes, ?_⟩
  show (headerBytes idle8).length + 1250 ≤ 2048
  rw [headerBytes_length]
  decide

/-- BlocksOfASessionCoverTheImage: no block and the one block of P1. -/
theorem witness_blocks :
    Inv run8 ∧ run8.running = true ∧ run8.consumed = false ∧ run8.curX = 0#32 ∧ run8.curY = 0#32 ∧
      blocks 0 run8 = some run8 ∧ (blocks 1 run8).isSome = true ∧ (run8.width.toNat + 7) / 8 * ((run8.height.toNat + 7) / 8) = 1 := by
  refine ⟨witness_inv_running, rfl, rfl, rfl, rfl, rfl, ?_, by decide⟩
  rw [blocks, test_block]
  rfl

/-- TailCompletesTheStream: a pending byte, and a pending quality; room for four bytes, exactly. -/
theorem witness_tail :
    due8.running = true ∧ due8.consumed = true ∧ accumulatorClear due8.wr ∧ due8.wr.out.length + 4 ≤ due8.par.maxOut ∧
      { due8 with par := { par0 with maxOut := 612 } }.wr.out.length + 4 = 612 := by
  have h : due8.wr.out.length = 608 := by
    show (headerBytes idle8 ++ [0x28#8]).length = 608
    rw [List.length_append, headerBytes_length]
    rfl
  refine ⟨rfl, rfl, by unfold accumulatorClear; decide, ?_, ?_⟩
  · rw [h]; decide
  · show due8.wr.out.length + 4 = 612
    rw [h]

/-- CmdWriteDispatches: a legal word, an illegal word. -/
theorem witness_cmd_write :
    decodeCmd 0x00000002#32 = some .start ∧ WellFormed (.wrCmd 0x00000007#32) = true ∧ decodeCmd 0x00000007#32 = none := by
  decide

/-- AppendOrRecordOverflow: room for one byte, none for the first time, none again. -/
theorem witness_append :
    out3.wr.out.length < { out3 with par := { par0 with maxOut := 4 } }.par.maxOut ∧
      { out3 with par := { par0 with maxOut := 3 } }.par.maxOut ≤ out3.wr.out.length ∧ out3.wr.ovf = false ∧
      { out3.wr with ovf := true }.ovf = true := by decide

/-- PixDataStoresOnePixel and OutDataReadsOneByte at the bounds, ReadoutReturnsTheOutput, ProgressReads. -/
theorem witness_ports :
    (res0.running = false ∧ { res0 with pixAddr := 63#32 }.pixAddr.toNat < res0.par.maxPixels ∧
      res0.par.maxPixels ≤ { res0 with pixAddr := 64#32 }.pixAddr.toNat ∧ res0.pix.wf = true) ∧
    out3.running = false ∧ { out3 with outAddr := 2#32 }.outAddr.toNat < out3.wr.out.length ∧
      out3.wr.out.length ≤ { out3 with outAddr := 3#32 }.outAddr.toNat ∧ out3.wr.out.length < 2 ^ 32 := by decide

/-- RoundingIsToNearest, LiteralsAreNearest, RoundsHalfAwayFromZero: finite operands and results, a nonzero divisor, and a
tie (2^53 + 1 lies midway between 2^53 and 2^53 + 2). -/
theorem witness_floats :
    f64Finite (f64OfNat (2 ^ 53)) = true ∧ f64Finite (f64OfNat 1) = true ∧ f64Finite (f64OfNat (2 ^ 53 + 2)) = true ∧
      f64Finite (fadd (f64OfNat (2 ^ 53)) (f64OfNat 1)) = true ∧ f64Finite (fsub (f64OfNat 1) (f64OfNat 1)) = true ∧
      f64Finite (fmul (f64OfNat 3) (f64OfNat 5)) = true ∧ f64Finite (fdiv (f64OfNat 1) (f64OfNat 3)) = true ∧
      f64Units (f64OfNat 3) ≠ 0 ∧ f64Units (f64OfNat (2 ^ 53 + 2)) ≠ f64Units (f64OfNat (2 ^ 53)) ∧
      f64Finite (f64Lit 1 10) = true := by decide +kernel

/-- ConstantBlockHasOnlyDc at the largest exponent. ScalingEntriesLieBetween0And2 at both ends. -/
theorem witness_transform :
    f64Exp 0x7F8FFFFFFFFFFFFF#64 ≤ 2040 ∧ (1 ≤ 1 ∧ 1 ≤ 100) ∧ (1 ≤ 100 ∧ 100 ≤ 100) ∧ 63 < 64 := by decide

/-- EdgeClampStaysInTheImage: the last block of a 10 by 9 image, in a pixel RAM of 90 words. -/
theorem witness_edge :
    let s : State := { res0 with width := 10#16, height := 9#16, curX := 8#32, curY := 8#32,
                                 par := { par0 with maxPixels := 90 } }
    s.curX.toNat < s.width.toNat ∧ s.curY.toNat < s.height.toNat ∧ s.width.toNat * s.height.toNat ≤ s.par.maxPixels := by
  decide

/-- UnwrittenPixelsReadAFreeValue: the last written word and the first unwritten one. -/
theorem witness_pixels : idle8.pix.read 63 = some 0xFF808080#32 ∧ idle8.pix.read 64 = none := by decide +kernel

/-- MagnitudeBitsDetermineTheValue and HuffmanCodesArePrefixFree. -/
theorem witness_coding :
    category 5 = category 5 ∧ magnitude 5 = magnitude 5 ∧ ({ sym := 0, code := 0, len := 2 } : HuffCode) ∈ buildTable dcLuma := by
  decide

/-- PutBitsSendsTheBits: arguments in the guard at its bound and outside it. -/
theorem witness_put_bits :
    (16 ≤ 16 ∧ 0xFFFF < 2 ^ 16 ∧ Writer.reset.out.length + 4 ≤ 4 ∧ accumulatorClear Writer.reset) ∧
      ¬(17 ≤ 16 ∧ 0 < 2 ^ 17) ∧ ¬(1 ≤ 16 ∧ 2 < 2 ^ 1) := by
  unfold accumulatorClear
  decide

/-- DataUnitIsCodedLosslessly: a unit at the bounds of what the tables code, with and without a value at position 63. -/
theorem witness_codable :
    (∀ k < 64, pick (tabulate 64 fun k => if k = 0 then (1023 : Int) else -1023) k 0 =
      if k = 0 then 1023 else -1023) ∧
    codable (-1024) (tabulate 64 fun k => if k = 0 then (1023 : Int) else -1023) ∧ codable 0 zeroUnit := by
  have h : ∀ k < 64, pick (tabulate 64 fun k => if k = 0 then (1023 : Int) else -1023) k 0 =
      if k = 0 then 1023 else -1023 := fun k hk => pick_tabulate hk _ _
  refine ⟨h, ⟨by rw [h 0 (by decide)]; decide, fun k h1 hk => by rw [h k hk, if_neg (by omega)]; decide⟩, ?_⟩
  refine ⟨by decide, fun k _ hk => ?_⟩
  rw [zeroUnit, pick_replicate hk]
  decide

end Sys2Proof.Tests
end

section
/-! PROOFS. What every step keeps of the host's side (00_scope.md R6, 20_memory.md R71). -/

namespace Sys2Proof.Machine

/-! ## What no access changes: the parameters, the rest of the host queue, the count of resets -/

/-- `t` has the parameters, the host queue and the count of resets of `s`: the parts of the state that are not the unit's
(log entries 1, 3, 4). -/
def SameHostSide (s t : State) : Prop := t.par = s.par ∧ t.host = s.host ∧ t.epoch = s.epoch

theorem SameHostSide.refl (s : State) : SameHostSide s s := ⟨rfl, rfl, rfl⟩

theorem refuseWith_sameHostSide (c : ErrCode) (s : State) : SameHostSide s (refuseWith c s) := ⟨rfl, rfl, rfl⟩

theorem applyPending_sameHostSide (s : State) : SameHostSide s (applyPending s) :=
  ⟨applyPending_par s, applyPending_host s, applyPending_epoch s⟩

theorem clearStatus_sameHostSide (v : Word) (s : State) : SameHostSide s (clearStatus v s) :=
  ⟨clearStatus_par v s, clearStatus_host v s, clearStatus_epoch v s⟩

theorem closeSession_sameHostSide (w : Writer) (s : State) : SameHostSide s (closeSession w s) :=
  ⟨closeSession_par w s, closeSession_host w s, closeSession_epoch w s⟩

section
variable {s t : State}

theorem readValue_sameHostSide {v : Word} (h : readValue v s = .next t) : SameHostSide s t :=
  next_inj.mp h ▸ ⟨rfl, rfl, rfl⟩

theorem writeWhileIdle_sameHostSide {u : State} (h : writeWhileIdle s u = .next t) (hu : SameHostSide s u) :
    SameHostSide s t := by
  obtain ⟨-, rfl⟩ | ⟨-, rfl⟩ := writeWhileIdle_next h
  · exact refuseWith_sameHostSide _ s
  · exact hu

theorem execSetQuality_sameHostSide {imm : BitVec 16} (h : execSetQuality imm s = .next t) : SameHostSide s t := by
  obtain ⟨-, rfl⟩ | ⟨-, rfl⟩ := execSetQuality_next h
  · exact ⟨rfl, rfl, rfl⟩
  · exact ⟨rfl, rfl, rfl⟩

theorem execStart_sameHostSide (h : execStart s = .next t) : SameHostSide s t := by
  obtain ⟨-, rfl⟩ | ⟨-, -, rfl⟩ | ⟨-, -, rfl⟩ | ⟨-, -, -, -, rfl⟩ := execStart_next h
  · exact refuseWith_sameHostSide _ s
  · exact refuseWith_sameHostSide _ s
  · exact refuseWith_sameHostSide _ s
  · exact ⟨rfl, rfl, rfl⟩

theorem execBlock_sameHostSide (h : execBlock s = .next t) : SameHostSide s t := by
  obtain ⟨-, rfl⟩ | ⟨-, -, rfl⟩ | ⟨-, -, -, y, cb, cr, w, -, -, rfl⟩ := execBlock_next h
  · exact refuseWith_sameHostSide _ s
  · exact refuseWith_sameHostSide _ s
  · exact ⟨rfl, rfl, rfl⟩

theorem execTail_sameHostSide (h : execTail s = .next t) : SameHostSide s t := by
  obtain ⟨-, rfl⟩ | ⟨-, -, rfl⟩ | ⟨-, -, w, -, rfl⟩ := execTail_next h
  · exact refuseWith_sameHostSide _ s
  · exact refuseWith_sameHostSide _ s
  · exact closeSession_sameHostSide w s

theorem execStop_sameHostSide (h : execStop s = .next t) : SameHostSide s t := by
  obtain ⟨-, rfl⟩ | ⟨-, rfl⟩ := execStop_next h
  · exact .refl t
  · exact applyPending_sameHostSide { s with running := false, consumed := false, truncated := true }

theorem execDispose_sameHostSide (h : execDispose s = .next t) : SameHostSide s t := by
  obtain ⟨-, rfl⟩ | ⟨-, rfl⟩ := execDispose_next h
  · exact .refl t
  · exact ⟨rfl, rfl, rfl⟩

theorem execWrCmd_sameHostSide {w : Word} (h : execWrCmd w s = .next t) : SameHostSide s t := by
  unfold execWrCmd at h
  split at h
  · exact next_inj.mp h ▸ refuseWith_sameHostSide _ s
  · exact next_inj.mp h ▸ .refl s
  · exact execSetQuality_sameHostSide h
  · exact execStart_sameHostSide h
  · exact execBlock_sameHostSide h
  · exact execTail_sameHostSide h
  · exact execStop_sameHostSide h
  · exact execDispose_sameHostSide h

theorem execWrPixData_sameHostSide {v : Word} (h : execWrPixData v s = .next t) : SameHostSide s t := by
  obtain ⟨-, rfl⟩ | ⟨-, -, rfl⟩ | ⟨-, -, rfl⟩ := execWrPixData_next h
  · exact refuseWith_sameHostSide _ s
  · exact refuseWith_sameHostSide _ s
  · exact ⟨rfl, rfl, rfl⟩

theorem execRdOutData_sameHostSide (h : execRdOutData s = .next t) : SameHostSide s t := by
  obtain ⟨-, rfl⟩ | ⟨-, -, rfl⟩ := execRdOutData_next h
  · exact ⟨rfl, rfl, rfl⟩
  · exact ⟨rfl, rfl, rfl⟩

/-- Every instruction: commands and writes one by one, and the reads that return a value together. -/
theorem exec_sameHostSide {i : Instr} (h : exec i s = .next t) : SameHostSide s t := by
  cases i
  case nop => exact next_inj.mp h ▸ .refl s
  case setQuality => exact execSetQuality_sameHostSide h
  case start => exact execStart_sameHostSide h
  case block => exact execBlock_sameHostSide h
  case tail => exact execTail_sameHostSide h
  case stop => exact execStop_sameHostSide h
  case dispose => exact execDispose_sameHostSide h
  case wrCmd => exact execWrCmd_sameHostSide h
  case wrStatus v => exact next_inj.mp h ▸ clearStatus_sameHostSide v s
  case wrIrqEn => exact next_inj.mp h ▸ ⟨rfl, rfl, rfl⟩
  case wrOutAddr => exact next_inj.mp h ▸ ⟨rfl, rfl, rfl⟩
  case wrWidth => exact writeWhileIdle_sameHostSide h ⟨rfl, rfl, rfl⟩
  case wrHeight => exact writeWhileIdle_sameHostSide h ⟨rfl, rfl, rfl⟩
  case wrPixAddr => exact writeWhileIdle_sameHostSide h ⟨rfl, rfl, rfl⟩
  case wrPixData => exact execWrPixData_sameHostSide h
  case rdOutData => exact execRdOutData_sameHostSide h
  all_goals exact readValue_sameHostSide h

end

/-- Settles O17, by the cases of a step: only a reset touches the host's side, and only its count. -/
theorem stepKeepsTheParameters : Obligations.StepKeepsTheParameters := by
  intro s t h
  obtain ⟨hnil, rfl⟩ | ⟨e, rest, hcons, hev⟩ := step_next_cases h
  case inl => simp [hnil]
  obtain ⟨rfl, rfl⟩ | ⟨a, rfl, ha⟩ := hev
  case inl => simp [hcons, resetUnit, State.resetWith]
  have hsame : SameHostSide { s with host := rest } t := by
    obtain ⟨i, -, hi⟩ | ⟨-, rfl⟩ | ⟨-, rfl⟩ := ha
    · exact exec_sameHostSide hi
    · exact ⟨rfl, rfl, rfl⟩
    · exact .refl _
  obtain ⟨hpar, hhost, hepoch⟩ := hsame
  simp [hcons, hpar, hhost, hepoch]

end Sys2Proof.Machine
end

section
/-! PROOFS. Every binary64 operation gives the value nearest to its exact result, ties to even (00_scope.md R9). -/

namespace Sys2Proof.Machine

/-! ## Negation and finite values -/

/-- Negation changes the sign bit alone. -/
theorem extractLsb'_fneg (x : F64) {start len : Nat} (h : start + len ≤ 63) :
    (fneg x).extractLsb' start len = x.extractLsb' start len := by
  apply BitVec.eq_of_getLsbD_eq
  intro i hi
  have h63 : start + i < 63 := by omega
  simp only [fneg, BitVec.getLsbD_extractLsb', BitVec.getLsbD_xor, BitVec.getLsbD_append, h63, if_true,
    BitVec.getLsbD_zero, Bool.xor_false]

@[simp] theorem f64Exp_fneg (x : F64) : f64Exp (fneg x) = f64Exp x := by
  rw [f64Exp, extractLsb'_fneg x (by decide), f64Exp]

@[simp] theorem f64Frac_fneg (x : F64) : f64Frac (fneg x) = f64Frac x := by
  rw [f64Frac, extractLsb'_fneg x (by decide), f64Frac]

@[simp] theorem f64Neg_fneg (x : F64) : f64Neg (fneg x) = !f64Neg x := by
  rw [f64Neg, fneg, BitVec.msb_xor, BitVec.msb_append, f64Neg]
  exact Bool.xor_true _

@[simp] theorem f64Finite_fneg (x : F64) : f64Finite (fneg x) = f64Finite x := by
  rw [f64Finite, f64Exp_fneg, f64Finite]

@[simp] theorem f64Mag_fneg (x : F64) : f64Mag (fneg x) = f64Mag x := by
  rw [f64Mag, f64Exp_fneg, f64Frac_fneg, f64Mag]

@[simp] theorem f64Units_fneg (x : F64) : f64Units (fneg x) = -f64Units x := by
  cases h : f64Neg x <;> simp [f64Units, h]

theorem f64IsNan_of_finite {x : F64} (h : f64Finite x = true) : f64IsNan x = false := by
  have hexp : f64Exp x ≠ 2047 := by simpa [f64Finite] using h
  simp [f64IsNan, hexp]

/-- A magnitude is fewer than 2^53 of some binary place. -/
theorem f64Mag_eq_mul_pow (x : F64) : ∃ a j, f64Mag x = a * 2 ^ j ∧ a < 2 ^ 53 := by
  have hfrac : f64Frac x < 2 ^ 52 := (x.extractLsb' 0 52).isLt
  unfold f64Mag
  split
  · exact ⟨f64Frac x, 0, by simp, by omega⟩
  · exact ⟨2 ^ 52 + f64Frac x, f64Exp x - 1, rfl, by omega⟩

/-! ## The nearest integer, ties to even -/

/-- The rounded quotient by its remainder: down, up, or in the middle to the even neighbour. -/
theorem nearestEven_spec (num den : Nat) :
    (2 * (num % den) < den ∧ nearestEven num den = num / den) ∨
    (den < 2 * (num % den) ∧ nearestEven num den = num / den + 1) ∨
    (2 * (num % den) = den ∧ nearestEven num den % 2 = 0) := by
  unfold nearestEven
  dsimp only
  split
  · exact .inl ⟨‹_›, rfl⟩
  · split
    · exact .inr (.inl ⟨‹_›, rfl⟩)
    · refine .inr (.inr ⟨by omega, ?_⟩)
      split <;> omega

/-- Where the multiples of `den` stand: `p` is one of the neighbours of `num / den`, or a whole `den` beyond one. -/
theorem multiple_cases (num den p : Nat) :
    p = num / den ∨ p = num / den + 1 ∨ p * den + den ≤ num / den * den ∨ num / den * den + 2 * den ≤ p * den := by
  rcases Nat.lt_trichotomy p (num / den) with hlt | heq | hgt
  · have := Nat.mul_le_mul_right den hlt
    rw [Nat.succ_mul] at this
    exact .inr (.inr (.inl this))
  · exact .inl heq
  · rcases Nat.eq_or_lt_of_le hgt with heq | hlt
    · exact .inr (.inl heq.symm)
    · have := Nat.mul_le_mul_right den hlt
      rw [Nat.succ_mul, Nat.succ_mul] at this
      exact .inr (.inr (.inr (by omega)))

/-- How far `p` lies from `num / den`, times `den`. -/
def ratioError (num den p : Nat) : Nat := ((num : Int) - (p * den : Nat)).natAbs

/-- No integer is nearer to `num / den`, and a tie goes to an even one. -/
theorem nearestEven_nearest {num den : Nat} (hd : 0 < den) (p : Nat) :
    ratioError num den (nearestEven num den) ≤ ratioError num den p ∧
      (ratioError num den (nearestEven num den) = ratioError num den p →
        p ≠ nearestEven num den → nearestEven num den % 2 = 0) := by
  have hnum := Nat.div_add_mod' num den
  have hrem := Nat.mod_lt num hd
  have hnext : (num / den + 1) * den = num / den * den + den := Nat.succ_mul _ _
  have hspec := nearestEven_spec num den
  unfold ratioError
  rcases nearestEven_cases num den with hq | hq <;> rw [hq] at hspec ⊢
  all_goals
    rcases multiple_cases num den p with rfl | rfl | hp | hp
    all_goals constructor <;> omega

/-! ## The nearest binary64 magnitude -/

/-- A packed value is finite exactly below the bits of infinity. -/
theorem f64Finite_pack_iff (neg : Bool) (bits : Nat) : f64Finite (f64Pack neg bits) = true ↔ bits < f64InfBits := by
  refine ⟨fun h => ?_, f64Finite_pack neg⟩
  by_contra hge
  rw [f64Pack_of_ge neg (Nat.not_lt.mp hge), f64Finite, f64Exp_pack neg (Nat.le_refl _)] at h
  exact absurd h (by decide)

/-- The last bit of a packed finite value. -/
theorem getLsbD_zero_pack (neg : Bool) {bits : Nat} (h : bits ≤ f64InfBits) :
    (f64Pack neg bits).getLsbD 0 = decide (bits % 2 = 1) := by
  rw [BitVec.getLsbD, f64Pack_toNat neg h, Nat.testBit_zero]
  congr 1
  cases neg <;> simp only [Bool.toNat_false, Bool.toNat_true, eq_iff_iff] <;> omega

/-- The significand of a rounded value, in last places. -/
def roundSig (num den : Nat) : Nat := nearestEven num (den * 2 ^ roundPlace num den)

/-- The magnitude of a rounded value, where it is finite (`f64Mag_round_of_finite`). -/
def roundMag (num den : Nat) : Nat := roundSig num den * 2 ^ roundPlace num den

theorem f64Finite_round_iff (neg : Bool) (num den : Nat) : f64Finite (f64Round neg num den) = true ↔
    roundPlace num den * 2 ^ 52 + roundSig num den < f64InfBits := by
  rw [f64Round_eq, f64Finite_pack_iff, roundSig]

/-- The magnitude of a finite rounded value, the greatest binade included. -/
theorem f64Mag_round_of_finite {neg : Bool} {num den : Nat} (h : f64Finite (f64Round neg num den) = true) :
    f64Mag (f64Round neg num den) = roundMag num den := by
  rcases Nat.lt_or_ge 2044 (roundPlace num den) with hk | hk
  case inr => exact f64Mag_round neg hk
  have hfin := (f64Finite_round_iff neg num den).mp h
  have hsig : 2 ^ 52 ≤ roundSig num den := (round_significand num den).2 (by omega)
  have htop : roundPlace num den = 2045 := by unfold f64InfBits at hfin; omega
  rw [roundMag, f64Round_eq, ← roundSig, htop, f64Mag, f64Exp_pack neg (htop ▸ hfin.le),
    f64Frac_pack neg (htop ▸ hfin.le)]
  rw [htop] at hfin
  unfold f64InfBits at hfin
  have hexp : (2045 * 2 ^ 52 + roundSig num den) / 2 ^ 52 = 2046 := by omega
  rw [hexp, if_neg (by decide)]
  congr 1
  omega

/-- The last bit of a finite rounded value is the significand's. -/
theorem getLsbD_zero_round {neg : Bool} {num den : Nat} (h : f64Finite (f64Round neg num den) = true)
    (heven : roundSig num den % 2 = 0) : (f64Round neg num den).getLsbD 0 = false := by
  rw [f64Round_eq, ← roundSig, getLsbD_zero_pack neg ((f64Finite_round_iff neg num den).mp h).le]
  exact decide_eq_false (by omega)

/-- An error counted in units of place `k`. -/
theorem ratioError_mul_pow (num den p k : Nat) : ratioError num den (p * 2 ^ k) = ratioError num (den * 2 ^ k) p := by
  rw [ratioError, ratioError, Nat.mul_assoc, Nat.mul_comm den]

/-- Fewer than 2^53 of a lower place stay under the least significand of place `k`. -/
theorem mul_pow_lt_of_place_lt {a j k : Nat} (ha : a < 2 ^ 53) (hj : j < k) : a * 2 ^ j < 2 ^ 52 * 2 ^ k := by
  have hpow : 2 ^ k = 2 ^ (k - 1) * 2 := by rw [← pow_succ, Nat.sub_add_cancel (by omega)]
  calc a * 2 ^ j ≤ a * 2 ^ (k - 1) := Nat.mul_le_mul_left a (Nat.pow_le_pow_right (by decide) (by omega))
    _ < 2 ^ 53 * 2 ^ (k - 1) := Nat.mul_lt_mul_of_pos_right ha (by positivity)
    _ = 2 ^ 52 * 2 ^ k := by rw [hpow]; ring

/-- Above the least place, the value reaches the least significand of its place. -/
theorem le_of_roundPlace_pos {num den : Nat} (hd : 0 < den) (hk : 1 ≤ roundPlace num den) :
    2 ^ 52 * 2 ^ roundPlace num den * den ≤ num := by
  have hplace := roundPlace_le num den
  have htwo : den * 2 ^ 1 ≤ den * 2 ^ roundPlace num den :=
    Nat.mul_le_mul_left den (Nat.pow_le_pow_right (by decide) hk)
  rw [Nat.mul_assoc, Nat.mul_comm _ den]
  omega

/-- Among the magnitudes of fewer than 2^53 of some binary place none is nearer to `num / den` than the rounded one,
and a tie goes to an even significand. Those of the rounded value's place or above are multiples of it; those below stay
under the least significand of the place, which is nearer to `num / den` than they are and no nearer than the rounded
one. -/
theorem roundMag_nearest {num den : Nat} (hd : 0 < den) {a : Nat} (j : Nat) (ha : a < 2 ^ 53) :
    ratioError num den (roundMag num den) ≤ ratioError num den (a * 2 ^ j) ∧
      (ratioError num den (roundMag num den) = ratioError num den (a * 2 ^ j) →
        a * 2 ^ j ≠ roundMag num den → roundSig num den % 2 = 0) := by
  have hD : 0 < den * 2 ^ roundPlace num den := by positivity
  rcases Nat.lt_or_ge j (roundPlace num den) with hj | hj
  · have hleast : ratioError num den (roundMag num den) ≤ ratioError num den (2 ^ 52 * 2 ^ roundPlace num den) := by
      rw [roundMag, ratioError_mul_pow, ratioError_mul_pow]
      exact (nearestEven_nearest hD (2 ^ 52)).1
    have hbelow := Nat.mul_lt_mul_of_pos_right (mul_pow_lt_of_place_lt ha hj) hd
    have hnum := le_of_roundPlace_pos hd (Nat.lt_of_le_of_lt (Nat.zero_le j) hj)
    have hlt : ratioError num den (2 ^ 52 * 2 ^ roundPlace num den) < ratioError num den (a * 2 ^ j) := by
      unfold ratioError
      omega
    exact ⟨hleast.trans hlt.le, fun heq => absurd heq (hleast.trans_lt hlt).ne⟩
  · have hmul : a * 2 ^ j = a * 2 ^ (j - roundPlace num den) * 2 ^ roundPlace num den := by
      rw [Nat.mul_assoc, ← pow_add, Nat.sub_add_cancel hj]
    rw [hmul, roundMag, ratioError_mul_pow, ratioError_mul_pow]
    obtain ⟨hle, htie⟩ := nearestEven_nearest (num := num) hD (a * 2 ^ (j - roundPlace num den))
    exact ⟨hle, fun heq hne => htie heq fun h => hne (by rw [h, ← roundSig])⟩

/-! ## The nearest binary64 value (00_scope.md R9) -/

/-- A magnitude with a sign. -/
def withSign (neg : Bool) (n : Nat) : Int := if neg then -(n : Int) else n

/-- The other sign negates. -/
theorem withSign_not (neg : Bool) (n : Nat) : withSign (!neg) n = -withSign neg n := by
  cases neg <;> simp [withSign]

theorem withSign_mul_natCast (neg : Bool) (m n : Nat) : withSign neg m * n = withSign neg (m * n) := by
  cases neg <;> simp [withSign]

/-- A product of signed magnitudes. -/
theorem withSign_mul (b c : Bool) (m n : Nat) : withSign b m * withSign c n = withSign (b ^^ c) (m * n) := by
  cases c
  · rw [Bool.xor_false]
    exact withSign_mul_natCast b m n
  · rw [Bool.xor_true, withSign_not, ← withSign_mul_natCast, ← mul_neg]
    rfl

theorem natAbs_withSign_sub_same (neg : Bool) (m n : Nat) :
    (withSign neg m - withSign neg n).natAbs = ((m : Int) - n).natAbs := by
  cases neg
  · rfl
  · simp only [withSign, if_true]
    omega

theorem natAbs_withSign_sub_not (neg : Bool) (m n : Nat) : (withSign neg m - withSign (!neg) n).natAbs = m + n := by
  rw [withSign_not]
  cases neg
  all_goals
    simp only [withSign, if_true, Bool.false_eq_true, if_false]
    omega

/-- An integer is its magnitude with its sign. -/
theorem withSign_natAbs (n : Int) : withSign (decide (n < 0)) n.natAbs = n := by
  by_cases h : n < 0
  all_goals
    simp only [withSign, h, decide_true, decide_false, if_true, Bool.false_eq_true, if_false]
    omega

theorem f64Units_eq (x : F64) : f64Units x = withSign (f64Neg x) (f64Mag x) := rfl

/-- How far a value lies from `v / den` units, times `den`. -/
def unitsError (v : Int) (den : Nat) (x : F64) : Nat := (v - f64Units x * den).natAbs

/-- `r`, if finite, is at least as near to `v / den` units as `z`, and where `z` is another value as near, the last bit
of `r` is 0. -/
def NearestAgainst (v : Int) (den : Nat) (z r : F64) : Prop :=
  f64Finite r = true → unitsError v den r ≤ unitsError v den z ∧
    (unitsError v den r = unitsError v den z → f64Units z ≠ f64Units r → r.getLsbD 0 = false)

theorem unitsError_one (v : Int) (x : F64) : unitsError v 1 x = (v - f64Units x).natAbs := by
  rw [unitsError, Nat.cast_one, mul_one]

/-- The error of a value of the same sign is that of its magnitude. -/
theorem unitsError_same_sign (num den : Nat) (x : F64) :
    unitsError (withSign (f64Neg x) num) den x = ratioError num den (f64Mag x) := by
  rw [ratioError, unitsError, f64Units_eq, withSign_mul_natCast, natAbs_withSign_sub_same]

/-- The error of a value of the other sign: both magnitudes together. -/
theorem unitsError_other_sign {neg : Bool} (num den : Nat) {x : F64} (h : f64Neg x ≠ neg) :
    unitsError (withSign neg num) den x = num + f64Mag x * den := by
  rw [unitsError, f64Units_eq, Bool.eq_not_of_ne h, withSign_mul_natCast, natAbs_withSign_sub_not]

theorem f64One_pos : 0 < f64One := by
  unfold f64One
  positivity

/-- One rounding is nearest against every value. A value of the other sign lies no nearer than 0, so only a zero ties. -/
theorem f64Round_nearestAgainst (neg : Bool) (num : Nat) {den : Nat} (hd : 0 < den) (z : F64) :
    NearestAgainst (withSign neg num) den z (f64Round neg num den) := by
  intro hfin
  have hmag := f64Mag_round_of_finite hfin
  have herr : unitsError (withSign neg num) den (f64Round neg num den) = ratioError num den (roundMag num den) := by
    rw [← hmag, ← unitsError_same_sign, f64Neg_round]
  obtain ⟨a, j, hz, ha⟩ := f64Mag_eq_mul_pow z
  obtain ⟨hle, htie⟩ := roundMag_nearest (num := num) hd j ha
  rw [← hz] at hle htie
  rw [herr]
  by_cases hsign : f64Neg z = neg
  · subst hsign
    rw [unitsError_same_sign]
    refine ⟨hle, fun heq hne => getLsbD_zero_round hfin (htie heq fun h => hne ?_)⟩
    rw [f64Units_eq, f64Units_eq, f64Neg_round, hmag, h]
  · rw [unitsError_other_sign num den hsign]
    have hzero : ratioError num den (roundMag num den) ≤ num := by
      simpa [ratioError] using (roundMag_nearest (num := num) hd 0 (Nat.two_pow_pos 53)).1
    refine ⟨by omega, fun heq hne => getLsbD_zero_round hfin ?_⟩
    have hmul : f64Mag z * den = 0 := by omega
    have hz0 : f64Mag z = 0 := (Nat.mul_eq_zero.mp hmul).resolve_right hd.ne'
    refine htie (by rw [heq, ratioError, hmul]; omega) fun h => hne ?_
    rw [f64Units_eq, f64Units_eq, hmag, ← h, hz0]
    simp [withSign]

/-! ## The operations -/

/-- Both zeros are 0 units. -/
theorem f64Units_pack_zero (neg : Bool) : f64Units (f64Pack neg 0) = 0 := by
  have hmag : f64Mag (f64Pack neg 0) = 0 := by
    simpa using f64Mag_pack neg (k := 0) (q := 0) (by decide) (by decide) (by decide)
  simp [f64Units, hmag]

theorem fadd_nearestAgainst {x y : F64} (hx : f64Finite x = true) (hy : f64Finite y = true) (z : F64) :
    NearestAgainst (f64Units x + f64Units y) 1 z (fadd x y) := by
  rw [fadd, f64IsNan_of_finite hx, f64IsNan_of_finite hy, hx, hy]
  simp only [Bool.or_self, Bool.false_eq_true, if_false, faddFinite]
  generalize f64Units x + f64Units y = n
  split
  case isTrue h =>
    have hbit : (f64Pack (f64Neg x && f64Neg y) 0).getLsbD 0 = false := getLsbD_zero_pack _ (Nat.zero_le _)
    exact fun _ => ⟨by simp [unitsError, h, f64Units_pack_zero], fun _ _ => hbit⟩
  case isFalse =>
    have := f64Round_nearestAgainst (decide (n < 0)) n.natAbs Nat.one_pos z
    rwa [withSign_natAbs] at this

theorem fsub_nearestAgainst {x y : F64} (hx : f64Finite x = true) (hy : f64Finite y = true) (z : F64) :
    NearestAgainst (f64Units x - f64Units y) 1 z (fsub x y) := by
  rw [fsub, sub_eq_add_neg, ← f64Units_fneg]
  exact fadd_nearestAgainst hx (by rwa [f64Finite_fneg]) z

theorem fmul_nearestAgainst {x y : F64} (hx : f64Finite x = true) (hy : f64Finite y = true) (z : F64) :
    NearestAgainst (f64Units x * f64Units y) f64One z (fmul x y) := by
  rw [fmul, f64IsNan_of_finite hx, f64IsNan_of_finite hy, hx, hy, f64Units_eq, f64Units_eq, withSign_mul]
  exact f64Round_nearestAgainst _ _ f64One_pos z

/-- The quotient's error is measured with the divisor's magnitude; its sign goes to the dividend. -/
theorem fdiv_nearestAgainst {x y : F64} (hx : f64Finite x = true) (hy : f64Finite y = true) (h0 : f64Mag y ≠ 0)
    (z : F64) :
    NearestAgainst (withSign (f64Neg x ^^ f64Neg y) (f64Mag x * f64One)) (f64Mag y) z (fdiv x y) := by
  rw [fdiv, f64IsNan_of_finite hx, f64IsNan_of_finite hy, hx, hy]
  simp only [Bool.or_self, Bool.false_eq_true, if_false, h0]
  exact f64Round_nearestAgainst _ _ (Nat.pos_of_ne_zero h0) z

/-- Moving the divisor's sign to the dividend keeps the error. -/
theorem unitsError_div (x y r : F64) :
    unitsError (withSign (f64Neg x ^^ f64Neg y) (f64Mag x * f64One)) (f64Mag y) r =
      (f64Units x * f64One - f64Units r * f64Units y).natAbs := by
  rw [unitsError, f64Units_eq x, f64Units_eq y, withSign_mul_natCast]
  cases f64Neg y
  · rw [Bool.xor_false]
    rfl
  · have hy : withSign true (f64Mag y) = -(f64Mag y : Int) := rfl
    rw [Bool.xor_true, withSign_not, ← Int.natAbs_neg, hy]
    congr 1
    ring

/-- Settles O46, operation by operation: each rounds its exact result once. -/
theorem roundingIsToNearest : Obligations.RoundingIsToNearest := by
  intro x y z hx hy _
  dsimp only
  refine ⟨?_, ?_, fmul_nearestAgainst hx hy z, fun h0 => ?_⟩
  · simpa only [NearestAgainst, unitsError_one] using fadd_nearestAgainst hx hy z
  · simpa only [NearestAgainst, unitsError_one] using fsub_nearestAgainst hx hy z
  · have hmag : f64Mag y ≠ 0 := fun h => h0 (by simp [f64Units, h])
    simpa only [NearestAgainst, unitsError_div] using fdiv_nearestAgainst hx hy hmag z

/-! ## Decimal literals and integers -/

/-- The place of fewer than 2^53 of place `e` is at most `e`. -/
theorem roundPlace_mul_pow_le {a den : Nat} (ha : a < 2 ^ 53) (hd : 0 < den) (e : Nat) :
    roundPlace (a * 2 ^ e * den) den ≤ e := by
  rw [roundPlace, Nat.mul_div_cancel _ hd]
  rcases Nat.eq_zero_or_pos a with rfl | hpos
  · simp
  · have hlt : a * 2 ^ e < 2 ^ (53 + e) := by
      rw [pow_add]
      exact Nat.mul_lt_mul_of_pos_right ha (by positivity)
    have := (Nat.log2_lt (by positivity)).mpr hlt
    omega

/-- A quotient that is fewer than 2^53 of a place is kept exactly. -/
theorem f64Mag_round_exact (neg : Bool) {a den e : Nat} (ha : a < 2 ^ 53) (hd : 0 < den) (he : e ≤ 2044) :
    f64Mag (f64Round neg (a * 2 ^ e * den) den) = a * 2 ^ e := by
  have hplace := roundPlace_mul_pow_le ha hd e
  rw [f64Mag_round neg (hplace.trans he)]
  generalize roundPlace (a * 2 ^ e * den) den = k at hplace
  have hpow : a * 2 ^ e = a * 2 ^ (e - k) * 2 ^ k := by rw [Nat.mul_assoc, ← pow_add, Nat.sub_add_cancel hplace]
  have hnum : a * 2 ^ e * den = a * 2 ^ (e - k) * (den * 2 ^ k) := by rw [hpow]; ring
  rw [hnum, nearestEven_exact (by positivity), ← hpow]

/-- An integer below 2^53 is that many units of place 1074, which is 1.0. -/
theorem f64OfNat_exact {n : Nat} (h : n < 2 ^ 53) :
    f64Finite (f64OfNat n) = true ∧ f64Units (f64OfNat n) = n * f64One := by
  have hround : f64OfNat n = f64Round false (n * 2 ^ 1074 * 1) 1 := by rw [Nat.mul_one]; rfl
  have hplace := roundPlace_mul_pow_le h Nat.one_pos 1074
  rw [hround]
  refine ⟨f64Finite_round false (hplace.trans (by decide)), ?_⟩
  rw [f64Units_eq, f64Neg_round, f64Mag_round_exact false h Nat.one_pos (by decide)]
  exact Nat.cast_mul n f64One

/-- Settles O47: a literal is one rounding, and an integer below 2^53 is kept by it. -/
theorem literalsAreNearest : Obligations.LiteralsAreNearest := by
  refine ⟨fun num den z hd hfin _ => ?_, fun n h => f64OfNat_exact h⟩
  have hle := (f64Round_nearestAgainst false (num * f64One) hd z hfin).1
  simp only [unitsError, withSign, Nat.cast_mul] at hle
  exact hle

end Sys2Proof.Machine
end

section
/-! PROOFS. Bounds that one rounding keeps: a value between two values of the binary64 grid is rounded to one between
them (00_scope.md R9). -/

namespace Sys2Proof.Machine

/-! ## Roundings between two values of a grid -/

/-- `x` is finite and lies between `lo` and `hi` units of the binary place `e`. -/
def Between (e : Nat) (lo hi : Int) (x : F64) : Prop :=
  f64Finite x = true ∧ lo * 2 ^ e ≤ f64Units x ∧ f64Units x ≤ hi * 2 ^ e

/-- An integer below 2^53 in magnitude, of a place in range, is a binary64 value. -/
theorem exists_f64Units_eq {n : Int} (hn : n.natAbs < 2 ^ 53) {e : Nat} (he : e ≤ 2044) :
    ∃ z, f64Units z = n * 2 ^ e := by
  refine ⟨f64Round (decide (n < 0)) (n.natAbs * 2 ^ e * 1) 1, ?_⟩
  rw [f64Units_eq, f64Neg_round, f64Mag_round_exact _ hn Nat.one_pos he, ← withSign_mul_natCast, withSign_natAbs,
    Nat.cast_pow, Nat.cast_ofNat]

/-- A nearest value stays below every binary64 value that the exact result stays below. -/
theorem NearestAgainst.le {v : Int} {den : Nat} {z r : F64} (h : NearestAgainst v den z r) (hd : 0 < den)
    (hr : f64Finite r = true) (hv : v ≤ f64Units z * den) : f64Units r ≤ f64Units z := by
  by_contra hlt
  have herr := (h hr).1
  have hmul := Int.mul_lt_mul_of_pos_right (Int.not_le.mp hlt) (Int.natCast_pos.mpr hd)
  unfold unitsError at herr
  omega

/-- A nearest value stays above every binary64 value that the exact result stays above. -/
theorem NearestAgainst.ge {v : Int} {den : Nat} {z r : F64} (h : NearestAgainst v den z r) (hd : 0 < den)
    (hr : f64Finite r = true) (hv : f64Units z * den ≤ v) : f64Units z ≤ f64Units r := by
  by_contra hlt
  have herr := (h hr).1
  have hmul := Int.mul_lt_mul_of_pos_right (Int.not_le.mp hlt) (Int.natCast_pos.mpr hd)
  unfold unitsError at herr
  omega

theorem roundPlace_mono {num num' : Nat} (den : Nat) (h : num ≤ num') : roundPlace num den ≤ roundPlace num' den := by
  have hlog := Nat.log_mono_right (b := 2) (Nat.div_le_div_right (c := den) h)
  rw [roundPlace, roundPlace, Nat.log2_eq_log_two, Nat.log2_eq_log_two]
  omega

/-- One rounding of a value between two values of a grid. -/
theorem f64Round_between {neg : Bool} {num den e : Nat} {lo hi : Int} (hd : 0 < den) (he : e ≤ 2044)
    (hlo : lo.natAbs < 2 ^ 53) (hhi : hi.natAbs < 2 ^ 53) (hl : lo * 2 ^ e * den ≤ withSign neg num)
    (hu : withSign neg num ≤ hi * 2 ^ e * den) : Between e lo hi (f64Round neg num den) := by
  have hmax : hi ≤ (max lo.natAbs hi.natAbs : Nat) ∧ -lo ≤ (max lo.natAbs hi.natAbs : Nat) := by omega
  have hM : max lo.natAbs hi.natAbs < 2 ^ 53 := by omega
  generalize max lo.natAbs hi.natAbs = M at hmax hM
  have hunit : (0 : Int) ≤ 2 ^ e * den := by positivity
  have hnum : num ≤ M * 2 ^ e * den := by
    zify
    rw [mul_assoc] at hl hu ⊢
    cases neg with
    | true =>
      have hneg : (num : Int) ≤ -lo * (2 ^ e * den) := by
        simp only [withSign, if_true] at hl
        rw [neg_mul]
        omega
      exact hneg.trans (mul_le_mul_of_nonneg_right hmax.2 hunit)
    | false => exact hu.trans (mul_le_mul_of_nonneg_right hmax.1 hunit)
  have hfin : f64Finite (f64Round neg num den) = true :=
    f64Finite_round neg (((roundPlace_mono den hnum).trans (roundPlace_mul_pow_le hM hd e)).trans he)
  obtain ⟨zl, hzl⟩ := exists_f64Units_eq hlo he
  obtain ⟨zh, hzh⟩ := exists_f64Units_eq hhi he
  rw [← hzl] at hl
  rw [← hzh] at hu
  exact ⟨hfin, hzl ▸ (f64Round_nearestAgainst neg num hd zl).ge hd hfin hl,
    hzh ▸ (f64Round_nearestAgainst neg num hd zh).le hd hfin hu⟩

theorem Between.mono {e : Nat} {lo lo' hi hi' : Int} {x : F64} (h : Between e lo hi x) (hl : lo' ≤ lo) (hh : hi ≤ hi') :
    Between e lo' hi' x := by
  obtain ⟨hfin, hlo, hhi⟩ := h
  exact ⟨hfin, (Int.mul_le_mul_of_nonneg_right hl (by positivity)).trans hlo,
    hhi.trans (Int.mul_le_mul_of_nonneg_right hh (by positivity))⟩

/-- The same bounds in units of a place `k` below. -/
theorem Between.finer {e : Nat} {lo hi : Int} {x : F64} (k : Nat) (h : Between (e + k) lo hi x) :
    Between e (lo * 2 ^ k) (hi * 2 ^ k) x := by
  obtain ⟨hfin, hlo, hhi⟩ := h
  have hpow (n : Int) : n * 2 ^ k * 2 ^ e = n * 2 ^ (e + k) := by rw [pow_add]; ring
  exact ⟨hfin, by rwa [hpow], by rwa [hpow]⟩

theorem fneg_between {e : Nat} {lo hi : Int} {x : F64} (h : Between e lo hi x) : Between e (-hi) (-lo) (fneg x) := by
  obtain ⟨hfin, hlo, hhi⟩ := h
  refine ⟨by rwa [f64Finite_fneg], ?_, ?_⟩ <;> rw [f64Units_fneg, neg_mul] <;> omega

theorem fadd_between {e : Nat} {a b c d : Int} {x y : F64} (hx : Between e a b x) (hy : Between e c d y)
    (he : e ≤ 2044) (hlo : (a + c).natAbs < 2 ^ 53) (hhi : (b + d).natAbs < 2 ^ 53) :
    Between e (a + c) (b + d) (fadd x y) := by
  obtain ⟨hxf, hxl, hxh⟩ := hx
  obtain ⟨hyf, hyl, hyh⟩ := hy
  have hl : (a + c) * 2 ^ e ≤ f64Units x + f64Units y := by rw [add_mul]; omega
  have hh : f64Units x + f64Units y ≤ (b + d) * 2 ^ e := by rw [add_mul]; omega
  rw [fadd, f64IsNan_of_finite hxf, f64IsNan_of_finite hyf, hxf, hyf]
  simp only [Bool.or_self, Bool.false_eq_true, if_false, faddFinite]
  generalize f64Units x + f64Units y = n at hl hh
  split
  case isTrue h0 =>
    subst h0
    exact ⟨f64Finite_pack _ (by decide), by rwa [f64Units_pack_zero], by rwa [f64Units_pack_zero]⟩
  case isFalse =>
    exact f64Round_between Nat.one_pos he hlo hhi (by simpa [withSign_natAbs] using hl)
      (by simpa [withSign_natAbs] using hh)

theorem fsub_between {e : Nat} {a b c d : Int} {x y : F64} (hx : Between e a b x) (hy : Between e c d y)
    (he : e ≤ 2044) (hlo : (a - d).natAbs < 2 ^ 53) (hhi : (b - c).natAbs < 2 ^ 53) :
    Between e (a - d) (b - c) (fsub x y) := by
  rw [Int.sub_eq_add_neg] at hlo hhi ⊢
  rw [Int.sub_eq_add_neg]
  exact fadd_between hx (fneg_between hy) he hlo hhi

/-- One unit of 1.0 as an integer power. -/
theorem f64One_cast : ((f64One : Nat) : Int) = 2 ^ 1074 := by
  rw [f64One, Nat.cast_pow, Nat.cast_ofNat]

/-- A product, by bounds on the exact product. -/
theorem fmul_between_of_le {e : Nat} {lo hi : Int} {x y : F64} (hx : f64Finite x = true) (hy : f64Finite y = true)
    (he : e ≤ 2044) (hlo : lo.natAbs < 2 ^ 53) (hhi : hi.natAbs < 2 ^ 53)
    (hl : lo * 2 ^ e * (f64One : Nat) ≤ f64Units x * f64Units y)
    (hh : f64Units x * f64Units y ≤ hi * 2 ^ e * (f64One : Nat)) : Between e lo hi (fmul x y) := by
  rw [f64Units_eq, f64Units_eq, withSign_mul] at hl hh
  rw [fmul, f64IsNan_of_finite hx, f64IsNan_of_finite hy, hx, hy]
  exact f64Round_between f64One_pos he hlo hhi hl hh

/-- A product with a factor between 0 and `b` units of a place. Places count from 2^-1074, so one place of 1074 drops
out. -/
theorem fmul_between {e f g : Nat} {lo hi b : Int} {x y : F64} (hx : Between e lo hi x) (hy : Between f 0 b y)
    (hplace : e + f = g + 1074) (hg : g ≤ 2044) (hl0 : lo ≤ 0) (hh0 : 0 ≤ hi) (hlo : (lo * b).natAbs < 2 ^ 53)
    (hhi : (hi * b).natAbs < 2 ^ 53) : Between g (lo * b) (hi * b) (fmul x y) := by
  obtain ⟨hxf, hxl, hxh⟩ := hx
  obtain ⟨hyf, hyl, hyh⟩ := hy
  rw [zero_mul] at hyl
  have hbound (n : Int) : n * b * 2 ^ g * (f64One : Nat) = n * 2 ^ e * (b * 2 ^ f) := by
    have hpow : (2 : Int) ^ e * 2 ^ f = 2 ^ g * (f64One : Nat) := by rw [f64One_cast, ← pow_add, ← pow_add, hplace]
    linear_combination (-n * b) * hpow
  have hpos : (0 : Int) ≤ 2 ^ e := by positivity
  refine fmul_between_of_le hxf hyf hg hlo hhi ?_ ?_
  · rw [hbound]
    nlinarith [mul_nonneg (neg_nonneg.mpr hl0) hpos]
  · rw [hbound]
    nlinarith [mul_nonneg hh0 hpos]

/-- A product of integers is exact. -/
theorem fmul_integers {m n : Int} {x y : F64} (hx : Between 1074 m m x) (hy : Between 1074 n n y)
    (h : (m * n).natAbs < 2 ^ 53) : Between 1074 (m * n) (m * n) (fmul x y) := by
  obtain ⟨hxf, hxl, hxh⟩ := hx
  obtain ⟨hyf, hyl, hyh⟩ := hy
  have hprod : f64Units x * f64Units y = m * n * 2 ^ 1074 * (f64One : Nat) := by
    rw [← hxl.antisymm hxh, ← hyl.antisymm hyh, f64One_cast]
    generalize (2 : Int) ^ 1074 = one
    ring
  exact fmul_between_of_le hxf hyf (by decide) h h hprod.ge hprod.le

/-- A quotient by a positive divisor, by bounds on the exact quotient. -/
theorem fdiv_between_of_le {e : Nat} {lo hi : Int} {x y : F64} (hx : f64Finite x = true) (hy : f64Finite y = true)
    (hpos : 0 < f64Units y) (he : e ≤ 2044) (hlo : lo.natAbs < 2 ^ 53) (hhi : hi.natAbs < 2 ^ 53)
    (hl : lo * 2 ^ e * f64Units y ≤ f64Units x * (f64One : Nat))
    (hh : f64Units x * (f64One : Nat) ≤ hi * 2 ^ e * f64Units y) : Between e lo hi (fdiv x y) := by
  have hneg : f64Neg y = false := by
    cases h : f64Neg y
    · rfl
    · simp only [f64Units, h, if_true] at hpos
      omega
  have hunits : f64Units y = f64Mag y := by rw [f64Units, hneg]; rfl
  rw [hunits] at hpos hl hh
  rw [f64Units_eq x, withSign_mul_natCast] at hl hh
  have h0 : f64Mag y ≠ 0 := by omega
  rw [fdiv, f64IsNan_of_finite hx, f64IsNan_of_finite hy, hx, hy, hneg, Bool.xor_false]
  simp only [Bool.or_self, Bool.false_eq_true, if_false, h0]
  exact f64Round_between (Nat.pos_of_ne_zero h0) he hlo hhi hl hh

/-- An integer below 2^53. -/
theorem f64OfNat_between {n : Nat} (h : n < 2 ^ 53) : Between 1074 n n (f64OfNat n) := by
  obtain ⟨hfin, hunits⟩ := f64OfNat_exact h
  have : f64Units (f64OfNat n) = (n : Int) * 2 ^ 1074 := by rw [hunits, f64One_cast]
  exact ⟨hfin, this.ge, this.le⟩

/-- A decimal literal, by its numerator in units of place `1074 - p`. -/
theorem f64Lit_between {num den p : Nat} {lo hi : Int} (hd : 0 < den) (hp : p ≤ 1074) (hlo : lo.natAbs < 2 ^ 53)
    (hhi : hi.natAbs < 2 ^ 53) (hl : lo * den ≤ num * 2 ^ p) (hh : num * 2 ^ p ≤ hi * den) :
    Between (1074 - p) lo hi (f64Lit num den) := by
  have hone : (f64One : Int) = 2 ^ p * 2 ^ (1074 - p) := by
    rw [f64One_cast, ← pow_add, Nat.add_sub_cancel' hp]
  have hpos : (0 : Int) ≤ 2 ^ (1074 - p) := by positivity
  refine f64Round_between hd (by omega) hlo hhi ?_ ?_
  · simp only [withSign, Bool.false_eq_true, if_false, Nat.cast_mul, hone]
    nlinarith
  · simp only [withSign, Bool.false_eq_true, if_false, Nat.cast_mul, hone]
    nlinarith

end Sys2Proof.Machine
end

section
/-! PROOFS. The DC value of a data unit, from any pixels through the binary64 path to the predictor (41_color_fdct.md
R165, R170; 42_quant_zigzag.md R197). Samples are bounded in units of 2^-20, which is the binary place 1054. -/

namespace Sys2Proof.Machine

/-! ## Samples (41_color_fdct.md R163) -/

/-- A colour constant, in units of 2^-20. -/
theorem micro_between {num : Nat} (h : num ≤ 1000000) : Between 1054 0 (num * 2 ^ 20 / 1000000 + 1) (micro num) :=
  f64Lit_between (p := 20) (by decide) (by decide) (by decide) (by omega) (by omega) (by omega)

theorem f64OfByte_between (b : Byte) : Between 1074 0 255 (f64OfByte b) :=
  (f64OfNat_between (n := b.toNat) (by omega)).mono (by omega) (by omega)

/-- A colour constant times an 8-bit field. -/
theorem mul_micro_between {num : Nat} (h : num ≤ 1000000) (b : Byte) :
    Between 1054 0 ((num * 2 ^ 20 / 1000000 + 1) * 255) (fmul (micro num) (f64OfByte b)) := by
  simpa only [zero_mul] using fmul_between (g := 1054) (micro_between h) (f64OfByte_between b) rfl (by decide)
    (by decide) (by omega) (by decide) (by omega)

/-- A negated colour constant times an 8-bit field. -/
theorem mul_neg_micro_between {num : Nat} (h : num ≤ 1000000) (b : Byte) :
    Between 1054 (-(num * 2 ^ 20 / 1000000 + 1) * 255) 0 (fmul (fneg (micro num)) (f64OfByte b)) := by
  simpa only [neg_zero, zero_mul] using fmul_between (g := 1054) (fneg_between (micro_between h)) (f64OfByte_between b)
    rfl (by decide) (by omega) (by decide) (by omega) (by decide)

/-- Y lies in -128..127, up to 2^-10 (41_color_fdct.md R165). -/
theorem lumaOf_between (p : Word) : Between 1054 (-128 * 2 ^ 20) (127 * 2 ^ 20 + 2 ^ 10) (lumaOf p) := by
  have hr := mul_micro_between (num := 299000) (by decide) (redOf p)
  have hg := mul_micro_between (num := 587000) (by decide) (greenOf p)
  have hb := mul_micro_between (num := 114000) (by decide) (blueOf p)
  have hrg := fadd_between hr hg (by decide) (by decide) (by decide)
  have hrgb := fadd_between hrg hb (by decide) (by decide) (by decide)
  have h128 := (f64OfNat_between (n := 128) (by decide)).finer (e := 1054) 20
  exact (fsub_between hrgb h128 (by decide) (by decide) (by decide)).mono (by decide) (by decide)

/-- Cb lies in -127.5..127.5, up to 2^-10 (41_color_fdct.md R165). -/
theorem cbOf_between (p : Word) : Between 1054 (-(255 * 2 ^ 19 + 2 ^ 10)) (255 * 2 ^ 19 + 2 ^ 10) (cbOf p) := by
  have hr := mul_neg_micro_between (num := 168736) (by decide) (redOf p)
  have hg := mul_neg_micro_between (num := 331264) (by decide) (greenOf p)
  have hb := mul_micro_between (num := 500000) (by decide) (blueOf p)
  have hrg := fadd_between hr hg (by decide) (by decide) (by decide)
  exact (fadd_between hrg hb (by decide) (by decide) (by decide)).mono (by decide) (by decide)

/-- Cr lies in -127.5..127.5, up to 2^-10 (41_color_fdct.md R165). -/
theorem crOf_between (p : Word) : Between 1054 (-(255 * 2 ^ 19 + 2 ^ 10)) (255 * 2 ^ 19 + 2 ^ 10) (crOf p) := by
  have hr := mul_micro_between (num := 500000) (by decide) (redOf p)
  have hg := mul_neg_micro_between (num := 418688) (by decide) (greenOf p)
  have hb := mul_neg_micro_between (num := 81312) (by decide) (blueOf p)
  have hrg := fadd_between hr hg (by decide) (by decide) (by decide)
  exact (fadd_between hrg hb (by decide) (by decide) (by decide)).mono (by decide) (by decide)

/-! ## The DC entry of the forward DCT (41_color_fdct.md R166, R167) -/

/-- Entry 0 of one AAN pass is the sum of its inputs, in a tree of seven additions (41_color_fdct.md R167). -/
theorem aanPass_dc_between {e : Nat} {lo hi : Int} {x : Nat → F64} (he : e ≤ 2044) (hx : ∀ k < 8, Between e lo hi (x k))
    (hlo : lo.natAbs < 2 ^ 49) (hhi : hi.natAbs < 2 ^ 49) : Between e (8 * lo) (8 * hi) (pick (aanPass x) 0 0#64) := by
  have add {a b : Int} {u v : F64} (hu : Between e a b u) (hv : Between e a b v) (ha : a.natAbs < 2 ^ 52)
      (hb : b.natAbs < 2 ^ 52) : Between e (a + a) (b + b) (fadd u v) :=
    fadd_between hu hv he (by omega) (by omega)
  have pair (i j : Nat) (hi : i < 8) (hj : j < 8) := add (hx i hi) (hx j hj) (by omega) (by omega)
  have even10 := add (pair 0 7 (by omega) (by omega)) (pair 3 4 (by omega) (by omega)) (by omega) (by omega)
  have even11 := add (pair 1 6 (by omega) (by omega)) (pair 2 5 (by omega) (by omega)) (by omega) (by omega)
  have hsum := add even10 even11 (by omega) (by omega)
  exact hsum.mono (by omega) (by omega)

/-- DATA[0] is the sum of the 64 samples, rounded 63 times. -/
theorem forwardDct_dc_between {e : Nat} {lo hi : Int} {d : Vector F64 64} (he : e ≤ 2044)
    (hd : ∀ i < 64, Between e lo hi (pick d i 0#64)) (hlo : lo.natAbs < 2 ^ 46) (hhi : hi.natAbs < 2 ^ 46) :
    Between e (64 * lo) (64 * hi) (pick (forwardDct d) 0 0#64) := by
  rw [pick_forwardDct (by decide)]
  have hrow (k : Nat) (hk : k < 8) :
      Between e (8 * lo) (8 * hi) (pick (aanPass fun j => pick d (8 * k + j) 0#64) 0 0#64) :=
    aanPass_dc_between he (fun j hj => hd (8 * k + j) (by omega)) (by omega) (by omega)
  exact (aanPass_dc_between he hrow (by omega) (by omega)).mono (by omega) (by omega)

/-! ## The scaling entry of the DC value (42_quant_zigzag.md R196) -/

/-- Every quantizer entry lies in 1..255 (42_quant_zigzag.md R192). -/
theorem quantEntry_range (base sf : Nat) : 1 ≤ quantEntry base sf ∧ quantEntry base sf ≤ 255 := by
  unfold quantEntry
  omega

theorem quantTable_entry_pos (base : List Nat) (q : Nat) {k : Nat} (hk : k < 64) :
    1 ≤ ((quantTable base q).toList.getD k 0#8).toNat := by
  have hentry : (quantTable base q).toList.getD k 0#8 =
      BitVec.ofNat 8 (quantEntry (entry base (entry unzz k)) (scaleFactor q)) := pick_tabulate hk _ _
  have hrange := quantEntry_range (entry base (entry unzz k)) (scaleFactor q)
  rw [hentry, BitVec.toNat_ofNat]
  omega

theorem scaleTable_dc (qt : Vector Byte 64) : pick (scaleTable qt) 0 0#64 =
    fdiv (f64OfNat 1) (fmul (fmul (fmul (f64OfNat (qt.toList.getD 0 0#8).toNat) (aasf 0)) (aasf 0)) (f64OfNat 8)) :=
  pick_tabulate (by decide) _ _

/-- The reciprocal of an integer from 8 on lies between 0 and 1/8. -/
theorem reciprocal_between {n : Int} {y : F64} (hy : Between 1074 n n y) (hn : 8 ≤ n) :
    Between 1071 0 1 (fdiv (f64OfNat 1) y) := by
  have hbounds (unit : Int) (hunit : 0 < unit) : 0 < n * (8 * unit) ∧
      0 * unit * (n * (8 * unit)) ≤ 8 * unit * (8 * unit) ∧ 8 * unit * (8 * unit) ≤ 1 * unit * (n * (8 * unit)) := by
    have hn0 : 0 < n := by omega
    exact ⟨by positivity, by rw [zero_mul, zero_mul]; positivity, by nlinarith [mul_pos hunit hunit]⟩
  obtain ⟨hyf, hyl, hyh⟩ := hy
  obtain ⟨hof, hol, hoh⟩ := f64OfNat_between (n := 1) (by decide)
  have hyu := hyl.antisymm hyh
  have hou := hol.antisymm hoh
  have hone := f64One_cast
  have hpow : (2 : Int) ^ 1074 = 8 * 2 ^ 1071 := pow_add 2 3 1071
  have hunit : (0 : Int) < 2 ^ 1071 := by positivity
  rw [hpow] at hyu hou hone
  generalize hplace : (2 : Int) ^ 1071 = unit at hyu hou hone hunit
  obtain ⟨hpos, hl, hh⟩ := hbounds unit hunit
  refine fdiv_between_of_le hof hyf (hyu ▸ hpos) (by decide) (by decide) (by decide) ?_ ?_
  all_goals
    rw [hplace, ← hyu, ← hou, hone, Nat.cast_one, one_mul]
    assumption

/-- The entry is `1 / (8 * QT[0])`, since AASF[0] is 1, so it lies between 0 and 1/8. -/
theorem scaleTable_dc_between {qt : Vector Byte 64} (h : 1 ≤ (qt.toList.getD 0 0#8).toNat) :
    Between 1071 0 1 (pick (scaleTable qt) 0 0#64) := by
  have haasf : Between 1074 1 1 (aasf 0) :=
    f64Lit_between (p := 0) (by decide) (by decide) (by decide) (by decide) (by decide) (by decide)
  have hq : Between 1074 _ _ (f64OfNat (qt.toList.getD 0 0#8).toNat) := f64OfNat_between (by omega)
  have hden := fmul_integers (fmul_integers (fmul_integers hq haasf (by omega)) haasf (by omega))
    (f64OfNat_between (n := 8) (by decide)) (by omega)
  rw [scaleTable_dc]
  exact reciprocal_between hden (by omega)

/-! ## The predictor -/

/-- A magnitude less than a half above `k` rounds to at most `k`. -/
theorem roundedMag_le (n k : Nat) : (2 * k + 1) * f64One ≤ 2 * n ∨ (2 * n + f64One) / (2 * f64One) ≤ k := by
  have hone := f64One_pos
  refine (Nat.lt_or_ge (2 * n) ((2 * k + 1) * f64One)).symm.imp_right fun h => ?_
  refine Nat.le_of_lt_succ ((Nat.div_lt_iff_lt_mul (by omega)).mpr ?_)
  calc 2 * n + f64One < (2 * k + 1) * f64One + f64One := by omega
    _ = (k + 1) * (2 * f64One) := by ring

theorem roundHalfAway_eq (p : F64) :
    roundHalfAway p = withSign (f64Neg p) ((2 * f64Mag p + f64One) / (2 * f64One)) := rfl

/-- Rounding keeps an upper bound of less than a half above an integer. -/
theorem roundHalfAway_le {p : F64} {k : Nat} (h : 2 * f64Units p < ((2 * k + 1) * f64One : Nat)) :
    roundHalfAway p ≤ k := by
  have hmag := roundedMag_le (f64Mag p) k
  rw [f64Units_eq] at h
  rw [roundHalfAway_eq]
  generalize (2 * f64Mag p + f64One) / (2 * f64One) = m at hmag ⊢
  generalize f64Neg p = neg at h ⊢
  cases neg
  all_goals
    simp only [withSign, if_true, Bool.false_eq_true, if_false] at h ⊢
    omega

/-- Rounding keeps a lower bound of less than a half below an integer. -/
theorem le_roundHalfAway {p : F64} {k : Nat} (h : -((2 * k + 1) * f64One : Nat) < 2 * f64Units p) :
    -(k : Int) ≤ roundHalfAway p := by
  have hmag := roundedMag_le (f64Mag p) k
  rw [f64Units_eq] at h
  rw [roundHalfAway_eq]
  generalize (2 * f64Mag p + f64One) / (2 * f64One) = m at hmag ⊢
  generalize f64Neg p = neg at h ⊢
  cases neg
  all_goals
    simp only [withSign, if_true, Bool.false_eq_true, if_false] at h ⊢
    omega

/-- DU[0] is the rounded product of DATA[0] and FD[0] (42_quant_zigzag.md R197, R198). -/
theorem transform_dc {fd samples : Vector F64 64} {du : Vector Int 64} (h : transform fd samples = .ok du) :
    pick du 0 0 = roundHalfAway (fmul (pick (forwardDct samples) 0 0#64) (pick fd 0 0#64)) := by
  obtain ⟨coef, hcoef, hdu⟩ := andThen_eq_ok.mp h
  cases hdu
  unfold quantize at hcoef
  dsimp only at hcoef
  split at hcoef
  · cases hcoef
    rw [reorder, pick_tabulate (by decide)]
    have h0 : entry unzz 0 = 0 := rfl
    rw [h0, pick_tabulate (by decide), products, pick_tabulate (by decide)]
  · cases hcoef

/-- The DC value of a data unit of samples between `lo` and `hi` units of 2^-20 lies between the integers around eight
times these bounds. -/
theorem transform_dc_range {qt : Vector Byte 64} {samples : Vector F64 64} {du : Vector Int 64} {lo hi : Int}
    {m n : Nat}
    (h : transform (scaleTable qt) samples = .ok du) (hqt : 1 ≤ (qt.toList.getD 0 0#8).toNat)
    (hs : ∀ i < 64, Between 1054 lo hi (pick samples i 0#64)) (hl0 : lo ≤ 0) (hh0 : 0 ≤ hi)
    (hl : -((2 * m + 1) * 2 ^ 17 : Nat) < 2 * lo) (hh : 2 * hi < ((2 * n + 1) * 2 ^ 17 : Nat)) (hm : m ≤ 2 ^ 20)
    (hn : n ≤ 2 ^ 20) : -(m : Int) ≤ pick du 0 0 ∧ pick du 0 0 ≤ n := by
  have hdc := forwardDct_dc_between (by decide) hs (by omega) (by omega)
  obtain ⟨-, hpl, hph⟩ := fmul_between hdc (scaleTable_dc_between hqt) (g := 1051) rfl (by decide) (by omega) (by omega)
    (by omega) (by omega)
  rw [transform_dc h]
  have hone : ((f64One : Nat) : Int) = 2 ^ 23 * 2 ^ 1051 := by rw [f64One_cast, ← pow_add]
  have hpos : (0 : Int) < 2 ^ 1051 := by positivity
  generalize (2 : Int) ^ 1051 = unit at hpl hph hpos hone
  push_cast at hl hh
  refine ⟨le_roundHalfAway ?_, roundHalfAway_le ?_⟩
  · push_cast [hone]
    nlinarith
  · push_cast [hone]
    nlinarith

/-! ## The three predictors -/

theorem blockUnits_next {s : State} {y cb cr : Vector Int 64} (h : blockUnits s = .ok (y, cb, cr)) :
    ∃ words, transform s.fdY (sampleBuffer lumaOf words) = .ok y ∧ transform s.fdC (sampleBuffer cbOf words) = .ok cb ∧
      transform s.fdC (sampleBuffer crOf words) = .ok cr := by
  obtain ⟨words, -, h⟩ := andThen_eq_ok.mp h
  obtain ⟨y', hy, h⟩ := andThen_eq_ok.mp h
  obtain ⟨cb', hcb, h⟩ := andThen_eq_ok.mp h
  obtain ⟨cr', hcr, h⟩ := andThen_eq_ok.mp h
  cases h
  exact ⟨words, hy, hcb, hcr⟩

/-- The DC values of the three data units of a block, with the tables of a quality (41_color_fdct.md R170). -/
theorem blockUnits_dc_range {s : State} {y cb cr : Vector Int 64} (ht : tablesOfQuality s)
    (h : blockUnits s = .ok (y, cb, cr)) :
    (-1024 ≤ pick y 0 0 ∧ pick y 0 0 ≤ 1016) ∧ (-1020 ≤ pick cb 0 0 ∧ pick cb 0 0 ≤ 1020) ∧
      (-1020 ≤ pick cr 0 0 ∧ pick cr 0 0 ≤ 1020) := by
  obtain ⟨hqtY, hqtC, hfdY, hfdC⟩ := ht
  obtain ⟨words, hy, hcb, hcr⟩ := blockUnits_next h
  rw [hfdY] at hy
  rw [hfdC] at hcb hcr
  have hposY : 1 ≤ (s.qtY.toList.getD 0 0#8).toNat := by
    rw [hqtY]
    exact quantTable_entry_pos _ _ (by decide)
  have hposC : 1 ≤ (s.qtC.toList.getD 0 0#8).toNat := by
    rw [hqtC]
    exact quantTable_entry_pos _ _ (by decide)
  have hsample {conv : Word → F64} {lo hi : Int} (hconv : ∀ p, Between 1054 lo hi (conv p)) (i : Nat) (hi64 : i < 64) :
      Between 1054 lo hi (pick (sampleBuffer conv words) i 0#64) := by
    rw [sampleBuffer, pick_tabulate hi64]
    exact hconv _
  refine ⟨transform_dc_range (m := 1024) (n := 1016) hy hposY (hsample lumaOf_between) ?_ ?_ ?_ ?_ ?_ ?_,
    transform_dc_range (m := 1020) (n := 1020) hcb hposC (hsample cbOf_between) ?_ ?_ ?_ ?_ ?_ ?_,
    transform_dc_range (m := 1020) (n := 1020) hcr hposC (hsample crOf_between) ?_ ?_ ?_ ?_ ?_ ?_⟩
  all_goals decide

end Sys2Proof.Machine
end

section
/-! PROOFS. Which instructions write the session's part of the state (10_state.md R22 to R27, R36, R37; 20_memory.md
R63; 40_commands.md R143). -/

namespace Sys2Proof.Machine

/-! ## The output under appends -/

/-- What every append keeps, whatever the accumulator holds, sending bits keeps. -/
theorem keptBySending_of_outAppend {cap : Nat} {P : Writer → Prop} (happ : ∀ b w, P w → P (outAppend cap b w))
    (hacc : ∀ w n p, P w → P { w with byteNew := n, bytePos := p }) : keptBySending cap P := by
  have hstuff (b : Byte) (w : Writer) (hw : P w) : P (emitStuffed cap b w) := by
    unfold emitStuffed
    split
    · exact happ _ _ (happ _ _ hw)
    · exact happ _ _ hw
  have hbit (b : Bool) (w : Writer) (hw : P w) : P (sendBit cap b w) := by
    unfold sendBit
    split
    · exact hacc _ _ _ (hstuff _ _ hw)
    · exact hacc _ _ _ hw
  intro n v w hw
  induction n generalizing w with
  | zero => exact hw
  | succ n ih => exact ih _ (hbit _ _ hw)

/-- What every append keeps, sending bytes keeps. -/
theorem emitRaws_keeps {cap : Nat} {P : Writer → Prop} (happ : ∀ b w, P w → P (outAppend cap b w)) (bs : List Byte)
    {w : Writer} (hw : P w) : P (emitRaws cap bs w) := by
  induction bs generalizing w with
  | nil => exact hw
  | cons b bs ih => exact ih (happ b w hw)

/-- The output holds `out` first, and past the capacity it has not grown. -/
def Extends (cap : Nat) (out : List Byte) (w : Writer) : Prop :=
  out <+: w.out ∧ w.out.length ≤ max out.length cap

theorem Extends.refl (cap : Nat) (w : Writer) : Extends cap w.out w := ⟨List.prefix_refl _, le_max_left _ _⟩

theorem outAppend_extends {cap : Nat} {out : List Byte} (b : Byte) (w : Writer) (h : Extends cap out w) :
    Extends cap out (outAppend cap b w) := by
  obtain ⟨hpre, hlen⟩ := h
  rcases outAppend_cases cap b w with ⟨hroom, e⟩ | ⟨-, -, e⟩ | ⟨-, -, e⟩ <;> rw [e]
  · refine ⟨hpre.trans (List.prefix_append _ _), ?_⟩
    rw [List.length_append, List.length_singleton]
    exact le_max_of_le_right hroom
  · exact ⟨by rwa [recordError_out], by rwa [recordError_out]⟩
  · exact ⟨hpre, hlen⟩

theorem sending_extends (cap : Nat) (out : List Byte) : keptBySending cap (Extends cap out) :=
  keptBySending_of_outAppend outAppend_extends fun _ _ _ h => h

/-! ## What most instructions leave of the session -/

/-- `t` has the session's part of the state as `s` has it: progress, output, accumulator and lifecycle bits. -/
structure SameSession (s t : State) : Prop where
  progress : t.curX = s.curX ∧ t.curY = s.curY ∧ t.predY = s.predY ∧ t.predCb = s.predCb ∧ t.predCr = s.predCr ∧
    t.pixDone = s.pixDone ∧ t.pixTotal = s.pixTotal
  output : t.wr.out = s.wr.out ∧ t.wr.ovf = s.wr.ovf
  accumulator : t.wr.byteNew = s.wr.byteNew ∧ t.wr.bytePos = s.wr.bytePos
  running : t.running = s.running
  consumed : t.consumed = s.consumed
  complete : t.complete = s.complete
  truncated : t.truncated = s.truncated

theorem SameSession.refl (s : State) : SameSession s s :=
  ⟨⟨rfl, rfl, rfl, rfl, rfl, rfl, rfl⟩, ⟨rfl, rfl⟩, ⟨rfl, rfl⟩, rfl, rfl, rfl, rfl⟩

theorem refuseWith_sameSession (c : ErrCode) (s : State) : SameSession s (refuseWith c s) :=
  { SameSession.refl s with
    output := ⟨recordError_out c s.wr, recordError_ovf c s.wr⟩
    accumulator := ⟨recordError_byteNew c s.wr, recordError_bytePos c s.wr⟩ }

theorem clearStatus_sameSession (v : Word) (s : State) : SameSession s (clearStatus v s) := by
  unfold clearStatus
  dsimp only
  split <;> split <;> exact { SameSession.refl s with }

section
variable {s t : State}

theorem readValue_sameSession {v : Word} (h : readValue v s = .next t) : SameSession s t :=
  next_inj.mp h ▸ { SameSession.refl s with }

theorem writeWhileIdle_sameSession {u : State} (h : writeWhileIdle s u = .next t) (hu : SameSession s u) :
    SameSession s t := by
  obtain ⟨-, rfl⟩ | ⟨-, rfl⟩ := writeWhileIdle_next h
  · exact refuseWith_sameSession _ s
  · exact hu

theorem execSetQuality_sameSession {imm : BitVec 16} (h : execSetQuality imm s = .next t) : SameSession s t := by
  obtain ⟨-, rfl⟩ | ⟨-, rfl⟩ := execSetQuality_next h
  · exact { SameSession.refl s with }
  · exact { SameSession.refl s with }

/-- A CMD write that is no command changes the error record alone. -/
theorem execWrCmd_sameSession {w : Word} (hw : WellFormed (.wrCmd w) = true) (h : execWrCmd w s = .next t) :
    SameSession s t := by
  rw [execWrCmd, (decodeCmd_eq_none_iff w).mpr (by simpa [WellFormed] using hw)] at h
  exact next_inj.mp h ▸ refuseWith_sameSession _ s

theorem execWrPixData_sameSession {v : Word} (h : execWrPixData v s = .next t) : SameSession s t := by
  obtain ⟨-, rfl⟩ | ⟨-, -, rfl⟩ | ⟨-, -, rfl⟩ := execWrPixData_next h
  · exact refuseWith_sameSession _ s
  · exact refuseWith_sameSession _ s
  · exact { SameSession.refl s with }

theorem execRdOutData_sameSession (h : execRdOutData s = .next t) : SameSession s t := by
  obtain ⟨-, rfl⟩ | ⟨-, -, rfl⟩ := execRdOutData_next h
  · exact { SameSession.refl s with }
  · exact { SameSession.refl s with }

/-- Every instruction but the five commands that open, advance, end or discard a session. -/
theorem exec_sameSession {i : Instr} (hw : WellFormed i = true) (hi : i ∉ [Instr.start, .block, .tail, .stop, .dispose])
    (h : exec i s = .next t) : SameSession s t := by
  cases i
  case start | block | tail | stop | dispose => simp at hi
  case nop => exact next_inj.mp h ▸ .refl s
  case setQuality => exact execSetQuality_sameSession h
  case wrCmd => exact execWrCmd_sameSession hw h
  case wrStatus v => exact next_inj.mp h ▸ clearStatus_sameSession v s
  case wrIrqEn => exact next_inj.mp h ▸ { SameSession.refl s with }
  case wrOutAddr => exact next_inj.mp h ▸ { SameSession.refl s with }
  case wrWidth => exact writeWhileIdle_sameSession h { SameSession.refl s with }
  case wrHeight => exact writeWhileIdle_sameSession h { SameSession.refl s with }
  case wrPixAddr => exact writeWhileIdle_sameSession h { SameSession.refl s with }
  case wrPixData => exact execWrPixData_sameSession h
  case rdOutData => exact execRdOutData_sameSession h
  all_goals exact readValue_sameSession h

end

/-! ## The five commands that change it -/

/-- Each part of the session's state is as before but for the instructions that write it. -/
def ChangedByItsWriters (i : Instr) (s t : State) : Prop :=
  (i ∉ [Instr.start, .block] →
    t.curX = s.curX ∧ t.curY = s.curY ∧ t.predY = s.predY ∧ t.predCb = s.predCb ∧ t.predCr = s.predCr ∧
      t.pixDone = s.pixDone ∧ t.pixTotal = s.pixTotal) ∧
  (i ∉ [Instr.start, .block, .tail, .dispose] → t.wr.out = s.wr.out ∧ t.wr.ovf = s.wr.ovf) ∧
  (i ∈ [Instr.block, .tail] → Extends s.par.maxOut s.wr.out t.wr) ∧
  (i ∉ [Instr.start, .block, .tail] → t.wr.byteNew = s.wr.byteNew ∧ t.wr.bytePos = s.wr.bytePos) ∧
  (i ∉ [Instr.start, .tail, .stop] → t.running = s.running) ∧
  (i ∉ [Instr.start, .block, .tail, .stop] → t.consumed = s.consumed) ∧
  (i ∉ [Instr.start, .tail, .dispose] → t.complete = s.complete) ∧
  (i ∉ [Instr.start, .stop, .dispose] → t.truncated = s.truncated)

section
variable {s t : State}

theorem SameSession.changedByItsWriters (h : SameSession s t) (i : Instr) : ChangedByItsWriters i s t := by
  have hout : Extends s.par.maxOut s.wr.out t.wr := h.output.1 ▸ .refl _ t.wr
  exact ⟨fun _ => h.progress, fun _ => h.output, fun _ => hout, fun _ => h.accumulator, fun _ => h.running,
    fun _ => h.consumed, fun _ => h.complete, fun _ => h.truncated⟩

theorem execStart_changes (h : execStart s = .next t) : ChangedByItsWriters .start s t := by
  obtain ⟨-, rfl⟩ | ⟨-, -, rfl⟩ | ⟨-, -, rfl⟩ | - := execStart_next h
  · exact (refuseWith_sameSession _ s).changedByItsWriters _
  · exact (refuseWith_sameSession _ s).changedByItsWriters _
  · exact (refuseWith_sameSession _ s).changedByItsWriters _
  · simp [ChangedByItsWriters]

theorem execBlock_changes (h : execBlock s = .next t) : ChangedByItsWriters .block s t := by
  obtain ⟨-, rfl⟩ | ⟨-, -, rfl⟩ | ⟨-, -, -, y, cb, cr, w, -, hw, rfl⟩ := execBlock_next h
  · exact (refuseWith_sameSession _ s).changedByItsWriters _
  · exact (refuseWith_sameSession _ s).changedByItsWriters _
  · have hout := codeUnits_keeps (sending_extends _ s.wr.out) hw (.refl _ s.wr)
    simpa [ChangedByItsWriters] using hout

theorem execTail_changes (h : execTail s = .next t) : ChangedByItsWriters .tail s t := by
  obtain ⟨-, rfl⟩ | ⟨-, -, rfl⟩ | ⟨-, -, w, hw, rfl⟩ := execTail_next h
  · exact (refuseWith_sameSession _ s).changedByItsWriters _
  · exact (refuseWith_sameSession _ s).changedByItsWriters _
  · have hpad := padToByte_keeps (sending_extends _ s.wr.out) hw (.refl _ s.wr)
    have hout : Extends s.par.maxOut s.wr.out (emitEoi s.par.maxOut w) := emitRaws_keeps outAppend_extends _ hpad
    simpa [ChangedByItsWriters] using hout

theorem execStop_changes (h : execStop s = .next t) : ChangedByItsWriters .stop s t := by
  obtain ⟨-, rfl⟩ | ⟨-, rfl⟩ := execStop_next h
  · exact (SameSession.refl t).changedByItsWriters _
  · simp [ChangedByItsWriters]

theorem execDispose_changes (h : execDispose s = .next t) : ChangedByItsWriters .dispose s t := by
  obtain ⟨-, rfl⟩ | ⟨-, rfl⟩ := execDispose_next h
  · exact (SameSession.refl t).changedByItsWriters _
  · simp [ChangedByItsWriters]

end

/-- Settles O19: the five commands one by one, and every other instruction leaves the session's state alone. -/
theorem sessionStateHasItsWriters : Obligations.SessionStateHasItsWriters := by
  intro i s t hi h
  by_cases hc : i ∈ [Instr.start, .block, .tail, .stop, .dispose]
  · simp only [List.mem_cons, List.not_mem_nil, or_false] at hc
    obtain rfl | rfl | rfl | rfl | rfl := hc
    · exact execStart_changes h
    · exact execBlock_changes h
    · exact execTail_changes h
    · exact execStop_changes h
    · exact execDispose_changes h
  · exact (exec_sameSession hi hc h).changedByItsWriters i

end Sys2Proof.Machine
end

section
/-! PROOFS. What a step keeps, from what the well-formed instructions and a reset keep; and with it the bounds of the DC
predictors (10_state.md R37, 41_color_fdct.md R170). -/

namespace Sys2Proof.Machine

/-! ## From instructions to steps -/

/-- Every instruction does what a well-formed one does: a CMD write of a legal word is that command (40_commands.md
R118). -/
theorem exec_eq_wellFormed (i : Instr) (s : State) : ∃ j, WellFormed j = true ∧ exec i s = exec j s := by
  cases i
  case wrCmd w =>
    cases hc : decodeCmd w with
    | none => exact ⟨.wrCmd w, by simp [WellFormed, (decodeCmd_eq_none_iff w).mp hc], rfl⟩
    | some c => exact ⟨c.instr, by cases c <;> rfl, by cases c <;> simp only [exec, execWrCmd, hc, Cmd.instr]⟩
  all_goals exact ⟨_, rfl, rfl⟩

/-- What a step leads to, from what a reset and the well-formed instructions lead to. A read of a reserved offset does
what a read of CMD does. -/
theorem step_leads_to {P Q : State → Prop} (hidle : ∀ s, P s → Q s) (hhost : ∀ s l, P s → P { s with host := l })
    (hreset : ∀ s, P s → Q (resetUnit s))
    (hexec : ∀ i s t, WellFormed i = true → P s → exec i s = .next t → Q t) {s t : State} (hs : P s)
    (h : step s = .next t) : Q t := by
  obtain ⟨-, rfl⟩ | ⟨e, rest, -, hev⟩ := step_next_cases h
  case inl => exact hidle t hs
  have hs' := hhost s rest hs
  obtain ⟨-, rfl⟩ | ⟨a, -, ⟨i, -, hi⟩ | ⟨-, rfl⟩ | ⟨-, rfl⟩⟩ := hev
  · exact hreset _ hs'
  · obtain ⟨j, hj, hij⟩ := exec_eq_wellFormed i { s with host := rest }
    exact hexec j _ t hj hs' (hij ▸ hi)
  · exact hexec .rdCmd _ _ rfl hs' rfl
  · exact hidle _ hs'

/-! ## The predictors -/

theorem predictorsInRange_of_zero {s : State} (hY : s.predY = 0) (hCb : s.predCb = 0) (hCr : s.predCr = 0) :
    predictorsInRange s := by
  unfold predictorsInRange
  rw [hY, hCb, hCr]
  decide

/-- A block sets the predictors to its DC values, START sets them to 0, and nothing else changes them. -/
theorem exec_predictorsInRange {i : Instr} {s t : State} (hi : WellFormed i = true) (ht : tablesOfQuality s)
    (hs : predictorsInRange s) (h : exec i s = .next t) : predictorsInRange t := by
  by_cases hc : i ∈ [Instr.start, .block]
  · simp only [List.mem_cons, List.not_mem_nil, or_false] at hc
    obtain rfl | rfl := hc
    · obtain ⟨-, rfl⟩ | ⟨-, -, rfl⟩ | ⟨-, -, rfl⟩ | ⟨-, -, -, -, rfl⟩ := execStart_next h
      · exact hs
      · exact hs
      · exact hs
      · exact predictorsInRange_of_zero rfl rfl rfl
    · obtain ⟨-, rfl⟩ | ⟨-, -, rfl⟩ | ⟨-, -, -, y, cb, cr, w, hunits, -, rfl⟩ := execBlock_next h
      · exact hs
      · exact hs
      · exact blockUnits_dc_range ht hunits
  · obtain ⟨-, -, hY, hCb, hCr, -, -⟩ := (sessionStateHasItsWriters i s t hi h).1 hc
    unfold predictorsInRange
    rwa [hY, hCb, hCr]

/-- Settles O14: from the tables of Q_ACT, the DC values of every block lie in the bounds. -/
theorem predictorsStayInRange : Obligations.PredictorsStayInRange := by
  intro s t hinv hs h
  exact step_leads_to (P := fun s => tablesOfQuality s ∧ predictorsInRange s) (fun _ hs => hs.2) (fun _ _ hs => hs)
    (fun _ _ => predictorsInRange_of_zero rfl rfl rfl) (fun _ _ _ hi hs h => exec_predictorsInRange hi hs.1 hs.2 h)
    ⟨hinv.tables, hs⟩ h

end Sys2Proof.Machine
end

section
/-! PROOFS. Accesses written out from the register map (10_state.md R43), and the reads of reserved offsets (R57). -/

namespace Sys2Proof.Machine

/-- Settles O4: the decoder is evaluated on the ten accesses. -/
theorem sampleAccessesDecode : Obligations.SampleAccessesDecode := by
  unfold Obligations.SampleAccessesDecode
  decide

/-- A reserved offset is in no window and is no register's (10_state.md R43, R57). -/
theorem decodeRead_reserved {off : BitVec 12} (h : reservedOffset off = true) : decodeRead off = .reservedRead := by
  have hrange : off.toNat = 0x00C ∨ (0x060 ≤ off.toNat ∧ off.toNat ≤ 0x0FC) ∨ 0x300 ≤ off.toNat := by
    simpa [reservedOffset, or_assoc] using h
  have hwindow (k : BitVec 4) (hk : off.toNat / 256 ≠ k.toNat) : off.extractLsb' 8 4 ≠ k := by
    rintro rfl
    rw [BitVec.extractLsb'_toNat, Nat.shiftRight_eq_div_pow] at hk
    omega
  rw [decodeRead, if_neg (hwindow 1#4 (by rw [BitVec.toNat_ofNat]; omega)),
    if_neg (hwindow 2#4 (by rw [BitVec.toNat_ofNat]; omega))]
  split
  rotate_right
  · rfl
  all_goals
    exfalso
    omega

/-- Settles O6: the read decodes to a reserved one, which returns 0. -/
theorem reservedReadsReturnZero : Obligations.ReservedReadsReturnZero := by
  intro s off halign hoff
  have hlow : off.extractLsb' 0 2 = 0#2 := by
    apply BitVec.eq_of_toNat_eq
    rw [BitVec.extractLsb'_toNat, Nat.shiftRight_zero]
    exact halign
  have hdecode : decode (readAt off) = .reservedRead := by
    rw [decode, if_neg (by simp [readAt]), if_neg (by simpa [readAt] using hlow)]
    exact decodeRead_reserved hoff
  rw [serve, hdecode]
  rfl

end Sys2Proof.Machine
end

section
/-! PROOFS. The invariant holds after reset (10_state.md R59, 70_reset_and_hazards.md R340). -/

namespace Sys2Proof.Machine

theorem Params.wf_iff (p : Params) : p.wf = true ↔
    (1 ≤ p.maxPixels ∧ p.maxPixels < 2 ^ 32) ∧ (611 ≤ p.maxOut ∧ p.maxOut < 2 ^ 32) ∧
      1 ≤ p.resetQuality.toNat ∧ p.resetQuality.toNat ≤ 100 := by
  simp only [Params.wf, Bool.and_eq_true, decide_eq_true_eq]
  tauto

theorem configParams_wf : Config.params.wf = true := by
  have hpix := Config.spareMaxPixels.isLt
  have hout := Config.spareMaxOut.isLt
  rw [Params.wf_iff]
  refine ⟨?_, ?_, by decide, by decide⟩ <;> simp only [Config.params] <;> omega

/-- After reset the unit is idle and empty, with the tables of RESET_QUALITY. -/
theorem resetWith_inv {p : Params} (h : p.wf = true) : Inv (State.resetWith p) where
  params := h
  lifecycle := rfl
  tables := ⟨rfl, rfl, rfl, rfl⟩
  pending := fun _ => rfl
  qualities := ⟨((Params.wf_iff p).mp h).2.2, ((Params.wf_iff p).mp h).2.2⟩
  cursor := ⟨⟨rfl, Nat.zero_le _⟩, rfl, Nat.zero_le _⟩
  progress := Nat.le_refl _
  accum := rfl
  error := ⟨fun _ => ⟨rfl, rfl⟩, fun he => absurd he Bool.false_ne_true⟩
  room := Nat.zero_le _
  pixels := ⟨reset_pix_wf p, fun _ _ hread => by cases hread⟩
  session := fun hr => absurd hr Bool.false_ne_true

theorem resetWith_scanSound (p : Params) : scanSound (State.resetWith p) := fun _ => rfl

/-- Settles O12: the reset state of any parameters in their ranges, among them those of `State.reset`. -/
theorem invariantHoldsAtReset : Obligations.InvariantHoldsAtReset := by
  have hall (p : Params) (h : p.wf = true) :
      Inv (State.resetWith p) ∧ predictorsInRange (State.resetWith p) ∧ scanSound (State.resetWith p) :=
    ⟨resetWith_inv h, predictorsInRange_of_zero rfl rfl rfl, resetWith_scanSound p⟩
  exact ⟨hall Config.params configParams_wf, hall⟩

end Sys2Proof.Machine
end

section
/-! PROOFS. Every step keeps the invariant: each operation on the state in turn, and then each instruction (10_state.md
R23, R59; 20_memory.md R63). -/

namespace Sys2Proof.Machine

/-! ## The parts of the invariant -/

/-- The five lifecycle states, bit by bit (10_state.md R23). -/
theorem lifecycle_isSome_iff (s : State) : (lifecycle s).isSome = true ↔
    (s.running = true → s.complete = false ∧ s.truncated = false) ∧
      (s.running = false → s.consumed = false ∧ (s.complete = true → s.truncated = false)) := by
  unfold lifecycle
  cases s.running <;> cases s.consumed <;> cases s.complete <;> cases s.truncated <;> decide

/-- The first 607 bytes of an output that starts with a header are still there in a longer output. -/
theorem take_header_of_prefix {s : State} {out out' : List Byte} (h : out.take 607 = headerBytes s)
    (hp : out <+: out') : out'.take 607 = headerBytes s := by
  have hlen := congrArg List.length h
  rw [headerBytes_length, List.length_take] at hlen
  obtain ⟨rest, rfl⟩ := hp
  rw [List.take_append_of_le_length (by omega), h]

/-! ## The shared operations -/

section
variable {s t : State}

/-- Any output side will do that is sound by itself and, during a session, only longer. -/
theorem Inv.withWriter (h : Inv s) {w : Writer} (haccum : accumulatorClear w) (herror : errorRecordLegal w)
    (hroom : w.out.length ≤ s.par.maxOut) (hout : s.running = true → s.wr.out <+: w.out) : Inv { s with wr := w } :=
  { h with
    accum := haccum
    error := herror
    room := hroom
    session := fun hr => by
      obtain ⟨hfits, htotal, hheader, hcursor, hdone⟩ := h.session hr
      exact ⟨hfits, htotal, take_header_of_prefix hheader (hout hr), hcursor, hdone⟩ }

/-- Sending bits keeps what the invariant says of the output side. -/
theorem Inv.withSent (h : Inv s) {w : Writer}
    (hkeeps : ∀ P : Writer → Prop, keptBySending s.par.maxOut P → P s.wr → P w) : Inv { s with wr := w } := by
  obtain ⟨hprefix, hroom⟩ := hkeeps _ (sending_grows s.wr.out) ⟨List.prefix_refl _, h.room⟩
  exact h.withWriter (hkeeps _ sending_clear h.accum) (hkeeps _ sending_legal h.error) hroom fun _ => hprefix

theorem emitEoi_inv (h : Inv s) : Inv { s with wr := emitEoi s.par.maxOut s.wr } := by
  obtain ⟨hprefix, hroom⟩ := emitRaws_out s.par.maxOut (wordBytes 0xFFD9#16) s.wr h.room
  exact h.withWriter (by simpa [accumulatorClear] using h.accum)
    (emitRaws_keeps (fun b _ hw => outAppend_legal _ b hw) _ h.error) hroom fun _ => hprefix

theorem refuseWith_inv (c : ErrCode) (h : Inv s) : Inv (refuseWith c s) :=
  h.withWriter (by simpa [accumulatorClear] using h.accum) (recordError_legal c h.error) (by simpa using h.room)
    fun _ => by simp

theorem clearErrors_inv (h : Inv s) : Inv (clearErrors s) :=
  h.withWriter h.accum ⟨fun _ => ⟨rfl, rfl⟩, fun he => absurd he Bool.false_ne_true⟩ h.room fun _ => List.prefix_refl _

theorem clearStatus_inv (v : Word) (h : Inv s) : Inv (clearStatus v s) := by
  unfold clearStatus
  dsimp only
  split <;> split
  · exact { clearErrors_inv h with }
  · exact { h with }
  · exact clearErrors_inv h
  · exact h

theorem readValue_inv {v : Word} (h : Inv s) (ht : readValue v s = .next t) : Inv t :=
  next_inj.mp ht ▸ { h with }

theorem writeWhileIdle_inv {u : State} (h : Inv s) (ht : writeWhileIdle s u = .next t)
    (hu : s.running = false → Inv u) : Inv t := by
  obtain ⟨-, rfl⟩ | ⟨hr, rfl⟩ := writeWhileIdle_next ht
  · exact refuseWith_inv _ h
  · exact hu hr

/-- What a session keeps does not concern an idle state. -/
theorem session_of_idle (hr : t.running = false) : t.running = true → sessionSound t :=
  fun h => absurd (hr.symm.trans h) Bool.false_ne_true

/-! ## SET_QUALITY and the pending quality -/

theorem qualityOperand_range (imm : BitVec 16) : 1 ≤ (qualityOperand imm).toNat ∧ (qualityOperand imm).toNat ≤ 100 := by
  rw [qualityOperand_toNat]
  omega

theorem execSetQuality_inv {imm : BitVec 16} (h : Inv s) (ht : execSetQuality imm s = .next t) : Inv t := by
  obtain ⟨hr, rfl⟩ | ⟨hr, rfl⟩ := execSetQuality_next ht
  · exact { h with
      pending := fun hidle => absurd (hidle.symm.trans hr) Bool.false_ne_true
      qualities := ⟨h.qualities.1, qualityOperand_range imm⟩ }
  · exact { h with
      tables := ⟨rfl, rfl, rfl, rfl⟩
      qualities := ⟨qualityOperand_range imm, qualityOperand_range imm⟩
      session := session_of_idle hr }

theorem applyPending_tables (h : tablesOfQuality s) : tablesOfQuality (applyPending s) := by
  unfold applyPending
  split
  · exact ⟨rfl, rfl, rfl, rfl⟩
  · exact h

theorem applyPending_qualities (h : qualitiesInRange s) : qualitiesInRange (applyPending s) := by
  unfold applyPending
  split
  · exact ⟨h.2, h.2⟩
  · exact h

theorem applyPending_qPending (s : State) : (applyPending s).qPending = false := by
  unfold applyPending
  split
  · rfl
  · simpa using ‹¬s.qPending = true›

/-- The end of a session, complete or truncated: the pending quality is applied (40_commands.md R117). -/
theorem applyPending_end_inv (h : Inv s) {c d : Bool} (p : Bool) (hcd : c = true → d = false) : Inv {
    applyPending s with
    running := false
    consumed := false
    complete := c
    truncated := d
    doneIp := p } where
  params := by simpa using h.params
  lifecycle := by
    rw [lifecycle_isSome_iff]
    simpa using hcd
  tables := applyPending_tables h.tables
  pending := fun _ => applyPending_qPending s
  qualities := applyPending_qualities h.qualities
  cursor := by simpa [cursorAligned] using h.cursor
  progress := by simpa using h.progress
  accum := by simpa using h.accum
  error := by simpa using h.error
  room := by simpa using h.room
  pixels := by simpa using h.pixels
  session := session_of_idle rfl

/-! ## START and DISPOSE -/

/-- START's header fits an empty output RAM of the least capacity. -/
theorem emitHeader_openSession (h : s.par.wf = true) : emitHeader (openSession s) (openSession s).wr =
    { s.wr with out := headerBytes s, ovf := false, byteNew := 0#8, bytePos := 7#3 } := by
  obtain ⟨-, ⟨hcap, -⟩, -⟩ := (Params.wf_iff s.par).mp h
  have hlen := headerBytes_length (openSession s)
  have hraws := emitRaws_room (cap := s.par.maxOut) (headerBytes (openSession s)) (openSession s).wr
    (by simp only [openSession_wr, List.length_nil]; omega)
  rw [emitHeader, openSession_par, hraws]
  rfl

/-- An image is less than 2^32 pixels. -/
theorem image_lt (w h : BitVec 16) : w.toNat * h.toNat < 2 ^ 32 := by
  rw [show 2 ^ 32 = 2 ^ 16 * 2 ^ 16 from rfl]
  exact Nat.mul_lt_mul'' w.isLt h.isLt

theorem toNat_pos_of_ne_zero {w : BitVec 16} (h : w ≠ 0#16) : 0 < w.toNat :=
  Nat.pos_of_ne_zero fun h0 => h (BitVec.eq_of_toNat_eq h0)

theorem startedSession_inv (h : Inv s) (hw : s.width ≠ 0#16) (hh : s.height ≠ 0#16)
    (hfits : s.width.toNat * s.height.toNat ≤ s.par.maxPixels) :
    Inv { openSession s with wr := emitHeader (openSession s) (openSession s).wr, running := true } := by
  rw [emitHeader_openSession h.params]
  have hlen := headerBytes_length s
  obtain ⟨-, ⟨hcap, -⟩, -⟩ := (Params.wf_iff s.par).mp h.params
  exact { h with
    lifecycle := rfl
    pending := fun hidle => by cases hidle
    cursor := ⟨⟨rfl, Nat.zero_le _⟩, rfl, Nat.zero_le _⟩
    progress := Nat.zero_le _
    accum := rfl
    room := by
      show (headerBytes s).length ≤ s.par.maxOut
      omega
    session := fun _ => by
      refine ⟨hfits, ?_, List.take_of_length_le hlen.le,
        fun _ => ⟨toNat_pos_of_ne_zero hw, toNat_pos_of_ne_zero hh, ?_⟩, fun hconsumed => by cases hconsumed⟩
      · exact (BitVec.toNat_ofNat _ _).trans (Nat.mod_eq_of_lt (image_lt _ _))
      · simp [pixelsBeforeCursor] }

theorem execStart_inv (h : Inv s) (ht : execStart s = .next t) : Inv t := by
  obtain ⟨-, rfl⟩ | ⟨-, -, rfl⟩ | ⟨-, -, rfl⟩ | ⟨-, hw, hh, hfits, rfl⟩ := execStart_next ht
  · exact refuseWith_inv _ h
  · exact refuseWith_inv _ h
  · exact refuseWith_inv _ h
  · exact startedSession_inv h hw hh hfits

theorem execDispose_inv (h : Inv s) (ht : execDispose s = .next t) : Inv t := by
  obtain ⟨-, rfl⟩ | ⟨hr, rfl⟩ := execDispose_next ht
  · exact h
  · exact { h with
      lifecycle := by
        have hconsumed := (((lifecycle_isSome_iff s).mp h.lifecycle).2 hr).1
        rw [lifecycle_isSome_iff]
        simp [hr, hconsumed]
      room := Nat.zero_le _
      session := session_of_idle hr }

/-! ## TAIL and STOP -/

/-- A complete or truncated session: what the lifecycle bits of a running one are. -/
theorem Inv.running_bits (h : Inv s) (hr : s.running = true) : s.complete = false ∧ s.truncated = false :=
  ((lifecycle_isSome_iff s).mp h.lifecycle).1 hr

theorem execTail_inv (h : Inv s) (ht : execTail s = .next t) : Inv t := by
  obtain ⟨-, rfl⟩ | ⟨-, -, rfl⟩ | ⟨hr, -, w, hw, rfl⟩ := execTail_next ht
  · exact refuseWith_inv _ h
  · exact refuseWith_inv _ h
  · have hsent : Inv { s with wr := w } := h.withSent fun _ hP => padToByte_keeps hP hw
    refine applyPending_end_inv (emitEoi_inv hsent) true fun _ => ?_
    rw [applyPending_truncated]
    exact (h.running_bits hr).2

theorem applyPending_stop (s : State) :
    applyPending { s with running := false, consumed := false, truncated := true } =
      { applyPending s with running := false, consumed := false, truncated := true } := by
  unfold applyPending
  dsimp only
  split <;> rfl

theorem execStop_inv (h : Inv s) (ht : execStop s = .next t) : Inv t := by
  obtain ⟨-, rfl⟩ | ⟨hr, rfl⟩ := execStop_next ht
  · exact h
  · rw [applyPending_stop]
    refine applyPending_end_inv h _ fun hc => ?_
    rw [applyPending_complete, (h.running_bits hr).1] at hc
    cases hc

/-! ## BLOCK (40_commands.md R119, R120) -/

/-- The pixels of the blocks up to the one at (x, y): a whole band of at most 8 rows at the end of a row of blocks. -/
theorem pixels_through_block {x y w h : Nat} (hx : x < w) (hy : y < h) :
    y * w + x * min 8 (h - y) + min 8 (w - x) * min 8 (h - y) =
      if w ≤ x + 8 then min (y + 8) h * w else y * w + (x + 8) * min 8 (h - y) := by
  split
  · have hcols : x + min 8 (w - x) = w := by omega
    have hrows : y + min 8 (h - y) = min (y + 8) h := by omega
    rw [Nat.add_assoc, ← Nat.add_mul, hcols, ← hrows, Nat.add_mul, Nat.mul_comm w]
  · have hcols : min 8 (w - x) = 8 := by omega
    rw [hcols, Nat.add_assoc, ← Nat.add_mul]

/-- They are all in the image. -/
theorem pixels_through_block_le {x y w h : Nat} (hx : x < w) (hy : y < h) :
    y * w + x * min 8 (h - y) + min 8 (w - x) * min 8 (h - y) ≤ w * h := by
  calc y * w + x * min 8 (h - y) + min 8 (w - x) * min 8 (h - y)
      = y * w + (x + min 8 (w - x)) * min 8 (h - y) := by ring
    _ ≤ y * w + w * (h - y) := Nat.add_le_add_left (Nat.mul_le_mul (by omega) (by omega)) _
    _ = w * h := by rw [Nat.mul_comm y, ← Nat.mul_add, Nat.add_sub_cancel' hy.le]

theorem toNat_add_eight {c : Word} (h : c.toNat ≤ 65536) : (c + 8#32).toNat = c.toNat + 8 := by
  rw [BitVec.toNat_add, BitVec.toNat_ofNat]
  omega

/-- The state after a block, its coding aside: the pixels are counted and the cursor advances. -/
def blockDone (s : State) : State := advanceCursor { s with pixDone := s.pixDone + BitVec.ofNat 32 (blockPixels s) }

/-- The next block of the row, or the first of the next row of blocks. -/
theorem blockDone_cursor (h : cursorAligned s) :
    (s.curX.toNat + 8 < s.width.toNat ∧ (blockDone s).curX.toNat = s.curX.toNat + 8 ∧ (blockDone s).curY = s.curY) ∨
    (s.width.toNat ≤ s.curX.toNat + 8 ∧ (blockDone s).curX = 0#32 ∧ (blockDone s).curY.toNat = s.curY.toNat + 8) := by
  obtain ⟨⟨-, hx⟩, -, hy⟩ := h
  have hX : (blockDone s).curX = nextCurX s := rfl
  have hY : (blockDone s).curY = nextCurY s := rfl
  rw [hX, hY, nextCurX, nextCurY, toNat_add_eight hx]
  by_cases hrow : s.width.toNat ≤ s.curX.toNat + 8
  · rw [if_pos hrow, if_pos hrow]
    exact .inr ⟨hrow, rfl, toNat_add_eight hy⟩
  · rw [if_neg hrow, if_neg hrow]
    exact .inl ⟨Nat.lt_of_not_le hrow, toNat_add_eight hx, rfl⟩

/-- PIX_DONE counts the pixels through this block. -/
theorem blockDone_pixDone (hx : s.curX.toNat < s.width.toNat) (hy : s.curY.toNat < s.height.toNat)
    (h : s.pixDone.toNat = pixelsBeforeCursor s) :
    (blockDone s).pixDone.toNat = s.curY.toNat * s.width.toNat + s.curX.toNat * min 8 (s.height.toNat - s.curY.toNat) +
      min 8 (s.width.toNat - s.curX.toNat) * min 8 (s.height.toNat - s.curY.toNat) := by
  have hle := pixels_through_block_le hx hy
  have himage := image_lt s.width s.height
  show (s.pixDone + BitVec.ofNat 32 (blockPixels s)).toNat = _
  rw [BitVec.toNat_add, BitVec.toNat_ofNat, h, pixelsBeforeCursor, blockPixels]
  omega

theorem blockDone_aligned (h : cursorAligned s) (hy : s.curY.toNat < s.height.toNat) :
    cursorAligned (blockDone s) := by
  have hw : s.width.toNat < 2 ^ 16 := s.width.isLt
  have hh : s.height.toNat < 2 ^ 16 := s.height.isLt
  have hnext := blockDone_cursor h
  obtain ⟨⟨hx8, -⟩, hy8, -⟩ := h
  unfold cursorAligned
  rcases hnext with ⟨hrow, hX, hY⟩ | ⟨hrow, hX, hY⟩ <;> rw [hX, hY]
  · omega
  · exact ⟨⟨rfl, Nat.zero_le _⟩, by omega⟩

/-- Inside the image the pixels before the cursor are counted; once it is left, all of them. -/
theorem blockDone_session (h : sessionSound s) (halign : cursorAligned s) (hc : s.consumed = false) :
    sessionSound (blockDone s) := by
  obtain ⟨hfits, htotal, hheader, hcursor, -⟩ := h
  obtain ⟨hx, hy, hdone⟩ := hcursor hc
  have hcount := (blockDone_pixDone hx hy hdone).trans (pixels_through_block hx hy)
  have hnext := blockDone_cursor halign
  obtain ⟨-, hy8, -⟩ := halign
  have hconsumed : (blockDone s).consumed = decide (s.height.toNat ≤ (blockDone s).curY.toNat) := congrArg (· || _) hc
  refine ⟨hfits, htotal, hheader, fun hin => ?_, fun hout => ?_⟩
  · have hY' : (blockDone s).curY.toNat < s.height.toNat := by simpa [hconsumed] using hin
    have hbefore : pixelsBeforeCursor (blockDone s) = (blockDone s).curY.toNat * s.width.toNat +
      (blockDone s).curX.toNat * min 8 (s.height.toNat - (blockDone s).curY.toNat) := rfl
    rw [hbefore, hcount]
    rcases hnext with ⟨hrow, hX, hY⟩ | ⟨hrow, hX, hY⟩
    · refine ⟨hX ▸ hrow, hY', ?_⟩
      rw [if_neg (by omega), hX, hY]
    · refine ⟨hX ▸ Nat.zero_lt_of_lt hx, hY', ?_⟩
      rw [if_pos hrow, hX, hY, Nat.min_eq_left (by omega)]
      simp
  · have hY' : s.height.toNat ≤ (blockDone s).curY.toNat := by simpa [hconsumed] using hout
    rcases hnext with ⟨hrow, hX, hY⟩ | ⟨hrow, hX, hY⟩
    · rw [hY] at hY'
      omega
    · refine ⟨hX, ?_, BitVec.eq_of_toNat_eq ?_⟩
      · show (blockDone s).curY.toNat = 8 * ((s.height.toNat + 7) / 8)
        omega
      · rw [hcount, if_pos hrow, Nat.min_eq_right (by omega), Nat.mul_comm]
        exact htotal.symm

theorem blockDone_inv (h : Inv s) (hr : s.running = true) (hc : s.consumed = false) : Inv (blockDone s) := by
  obtain ⟨-, htotal, -, hcursor, -⟩ := h.session hr
  obtain ⟨hx, hy, hdone⟩ := hcursor hc
  have hle := blockDone_pixDone hx hy hdone ▸ pixels_through_block_le hx hy
  exact { h with
    lifecycle := (lifecycle_isSome_iff _).mpr
      ⟨fun _ => h.running_bits hr, fun hidle => absurd (hidle.symm.trans hr) Bool.false_ne_true⟩
    cursor := blockDone_aligned h.cursor hy
    progress := hle.trans htotal.ge
    session := fun _ => blockDone_session (h.session hr) h.cursor hc }

theorem execBlock_inv (h : Inv s) (ht : execBlock s = .next t) : Inv t := by
  obtain ⟨-, rfl⟩ | ⟨-, -, rfl⟩ | ⟨hr, hc, -, y, cb, cr, w, -, hw, rfl⟩ := execBlock_next ht
  · exact refuseWith_inv _ h
  · exact refuseWith_inv _ h
  · have hsent : Inv { s with wr := w } := h.withSent fun _ hP => codeUnits_keeps hP hw
    exact { blockDone_inv hsent hr hc with }

/-! ## The register accesses -/

theorem pixels_write {m : Memory} {cap i : Nat} (v : Word)
    (h : m.wf = true ∧ ∀ j u, m.read j = some u → j < cap) (hi : i < cap) :
    (m.write i v).wf = true ∧ ∀ j u, (m.write i v).read j = some u → j < cap := by
  obtain ⟨hwf, hbound⟩ := h
  refine ⟨Memory.write_wf hwf i v, fun j u hread => ?_⟩
  obtain rfl | hread := Memory.read_write_some hread
  · exact hi
  · exact hbound j u hread

theorem execWrPixData_inv {v : Word} (h : Inv s) (ht : execWrPixData v s = .next t) : Inv t := by
  obtain ⟨-, rfl⟩ | ⟨-, -, rfl⟩ | ⟨hr, hi, rfl⟩ := execWrPixData_next ht
  · exact refuseWith_inv _ h
  · exact refuseWith_inv _ h
  · exact { h with
      pixels := pixels_write v h.pixels hi
      session := session_of_idle hr }

theorem execRdOutData_inv (h : Inv s) (ht : execRdOutData s = .next t) : Inv t := by
  obtain ⟨-, rfl⟩ | ⟨-, -, rfl⟩ := execRdOutData_next ht
  · exact { h with }
  · exact { h with }

theorem execWrCmd_inv {w : Word} (hw : WellFormed (.wrCmd w) = true) (h : Inv s) (ht : execWrCmd w s = .next t) :
    Inv t := by
  rw [execWrCmd, (decodeCmd_eq_none_iff w).mpr (by simpa [WellFormed] using hw)] at ht
  exact next_inj.mp ht ▸ refuseWith_inv _ h

theorem exec_inv {i : Instr} (hi : WellFormed i = true) (h : Inv s) (ht : exec i s = .next t) : Inv t := by
  cases i
  case nop => exact next_inj.mp ht ▸ h
  case setQuality => exact execSetQuality_inv h ht
  case start => exact execStart_inv h ht
  case block => exact execBlock_inv h ht
  case tail => exact execTail_inv h ht
  case stop => exact execStop_inv h ht
  case dispose => exact execDispose_inv h ht
  case wrCmd => exact execWrCmd_inv hi h ht
  case wrStatus v => exact next_inj.mp ht ▸ clearStatus_inv v h
  case wrIrqEn => exact next_inj.mp ht ▸ { h with }
  case wrOutAddr => exact next_inj.mp ht ▸ { h with }
  case wrWidth => exact writeWhileIdle_inv h ht fun hr => { h with session := session_of_idle hr }
  case wrHeight => exact writeWhileIdle_inv h ht fun hr => { h with session := session_of_idle hr }
  case wrPixAddr => exact writeWhileIdle_inv h ht fun _ => { h with }
  case wrPixData => exact execWrPixData_inv h ht
  case rdOutData => exact execRdOutData_inv h ht
  all_goals exact readValue_inv h ht

end

/-- Settles O13: a reset leads to a reset state, and every well-formed instruction keeps the invariant. -/
theorem stepKeepsTheInvariant : Obligations.StepKeepsTheInvariant := fun _ _ hs h =>
  step_leads_to (fun _ hs => hs) (fun _ _ hs => { hs with }) (fun _ hs => { resetWith_inv hs.params with })
    (fun _ _ _ hi hs h => exec_inv hi hs h) hs h

end Sys2Proof.Machine
end

section
/-! PROOFS. The accesses that are refused: no instruction is, and the decoder rejects those alone that are not admitted
(20_memory.md R72). -/

namespace Sys2Proof.Machine

/-! ## No instruction is refused -/

theorem orFault_ne_refused {α : Type} {x : Except Fault α} {f : α → Result} {r : Refusal}
    (hf : ∀ a, f a ≠ .refused r) : orFault x f ≠ .refused r := by
  cases x with
  | ok a => exact hf a
  | error e => nofun

section
variable (s : State) (r : Refusal)

theorem writeWhileIdle_ne_refused (t : State) : writeWhileIdle s t ≠ .refused r := by
  unfold writeWhileIdle
  split <;> nofun

theorem execSetQuality_ne_refused (imm : BitVec 16) : execSetQuality imm s ≠ .refused r := by
  unfold execSetQuality
  dsimp only
  split <;> nofun

theorem execStart_ne_refused : execStart s ≠ .refused r := by
  unfold execStart
  split
  · nofun
  split
  · nofun
  split <;> nofun

theorem execBlock_ne_refused : execBlock s ≠ .refused r := by
  unfold execBlock
  split
  · nofun
  split
  · nofun
  split
  · nofun
  · exact orFault_ne_refused fun _ => orFault_ne_refused nofun

theorem execTail_ne_refused : execTail s ≠ .refused r := by
  unfold execTail
  split
  · nofun
  split
  · nofun
  · exact orFault_ne_refused nofun

theorem execStop_ne_refused : execStop s ≠ .refused r := by
  unfold execStop
  split <;> nofun

theorem execDispose_ne_refused : execDispose s ≠ .refused r := by
  unfold execDispose
  split <;> nofun

theorem execWrPixData_ne_refused (v : Word) : execWrPixData v s ≠ .refused r := by
  unfold execWrPixData
  split
  · nofun
  split <;> nofun

theorem execRdOutData_ne_refused : execRdOutData s ≠ .refused r := by
  unfold execRdOutData
  split <;> nofun

/-- A refusal is `serve`'s alone: every instruction has a meaning in every state. -/
theorem exec_ne_refused (i : Instr) : exec i s ≠ .refused r := by
  obtain ⟨j, hj, hij⟩ := exec_eq_wellFormed i s
  rw [hij]
  cases j
  case setQuality imm => exact execSetQuality_ne_refused s r imm
  case start => exact execStart_ne_refused s r
  case block => exact execBlock_ne_refused s r
  case tail => exact execTail_ne_refused s r
  case stop => exact execStop_ne_refused s r
  case dispose => exact execDispose_ne_refused s r
  case wrCmd w =>
    rw [exec, execWrCmd_illegal (by simpa [WellFormed] using hj)]
    nofun
  case wrWidth => exact writeWhileIdle_ne_refused s r _
  case wrHeight => exact writeWhileIdle_ne_refused s r _
  case wrPixAddr => exact writeWhileIdle_ne_refused s r _
  case wrPixData v => exact execWrPixData_ne_refused s r v
  case rdOutData => exact execRdOutData_ne_refused s r
  all_goals nofun

end

/-! ## The accesses the decoder rejects -/

theorem decodeRead_ne_reject (off : BitVec 12) (r : Reject) : decodeRead off ≠ .reject r := by
  unfold decodeRead
  split
  · nofun
  split
  · nofun
  split <;> nofun

theorem decodeWrite_ne_reject (off : BitVec 12) (v : Word) (r : Reject) : decodeWrite off v ≠ .reject r := by
  unfold decodeWrite
  split
  · split <;> nofun
  all_goals nofun

/-- Offset bits 1:0 are zero exactly at the multiples of 4. -/
theorem lowBits_eq_zero_iff (off : BitVec 12) : off.extractLsb' 0 2 = 0#2 ↔ off.toNat % 4 = 0 := by
  rw [← BitVec.toNat_inj, BitVec.extractLsb'_toNat, Nat.shiftRight_zero]
  rfl

theorem Access.admitted_iff (a : Access) : a.admitted = true ↔ a.size = 4 ∧ a.off.toNat % 4 = 0 := by
  simp [Access.admitted, lowBits_eq_zero_iff]

theorem decode_of_read {a : Access} (h : a.admitted = true) (hk : a.kind = .read) : decode a = decodeRead a.off := by
  obtain ⟨hsize, halign⟩ : a.size = 4 ∧ a.off.extractLsb' 0 2 = 0#2 := by simpa [Access.admitted] using h
  simp [decode, hsize, halign, hk]

theorem decode_of_write {a : Access} (h : a.admitted = true) (hk : a.kind = .write) :
    decode a = decodeWrite a.off a.data := by
  obtain ⟨hsize, halign⟩ : a.size = 4 ∧ a.off.extractLsb' 0 2 = 0#2 := by simpa [Access.admitted] using h
  simp [decode, hsize, halign, hk]

theorem decode_ne_reject {a : Access} (h : a.admitted = true) (r : Reject) : decode a ≠ .reject r := by
  cases hk : a.kind with
  | read => exact decode_of_read h hk ▸ decodeRead_ne_reject a.off r
  | write => exact decode_of_write h hk ▸ decodeWrite_ne_reject a.off a.data r

theorem decode_of_not_admitted {a : Access} (h : a.admitted ≠ true) : ∃ r, decode a = .reject r := by
  by_cases hsize : a.size = 4
  · have halign : a.off.extractLsb' 0 2 ≠ 0#2 := fun halign => h (by simp [Access.admitted, hsize, halign])
    exact ⟨.misaligned, by rw [decode, if_neg (not_not.mpr hsize), if_pos halign]⟩
  · exact ⟨.width, by rw [decode, if_pos hsize]⟩

theorem serve_ne_refused {a : Access} (h : a.admitted = true) (s : State) (r : Refusal) :
    serve (.access a) s ≠ .refused r := by
  rw [serve]
  cases hd : decode a with
  | instr i => exact exec_ne_refused s r i
  | reservedRead => nofun
  | ignoredWrite => nofun
  | reject r' => exact absurd hd (decode_ne_reject h r')

/-- Settles O8: the decoder rejects the other accesses alone, and no instruction is refused. -/
theorem onlyInadmissibleAccessesAreRefused : Obligations.OnlyInadmissibleAccessesAreRefused := by
  intro s a
  rw [← Access.admitted_iff]
  constructor
  · rintro ⟨r, hr⟩ h
    exact serve_ne_refused h s r hr
  · intro h
    obtain ⟨r, hr⟩ := decode_of_not_admitted h
    exact ⟨refusalOf r, by rw [serve, hr]⟩

end Sys2Proof.Machine
end

section
/-! PROOFS. Every well-formed instruction decodes from its own access (30_encoding.md R93, R95; 10_state.md R43), and a
step runs it (20_memory.md R71, R77). -/

namespace Sys2Proof.Machine

@[simp] theorem decodeCmd_encodeCmd (c : Cmd) : decodeCmd (encodeCmd c) = some c := by
  cases c
  case setQuality imm =>
    have hopc : (imm ++ 0x0001#16).extractLsb' 0 8 = 0x01#8 := BitVec.extractLsb'_append_eq_of_add_le (by decide)
    have hrsv : (imm ++ 0x0001#16).extractLsb' 8 8 = 0#8 := BitVec.extractLsb'_append_eq_of_add_le (by decide)
    have himm : (imm ++ 0x0001#16).extractLsb' 16 16 = imm :=
      (BitVec.extractLsb'_append_eq_of_le (by decide)).trans BitVec.extractLsb'_eq_self
    simp [decodeCmd, encodeCmd, hopc, hrsv, himm]
  all_goals rfl

theorem decode_writeAt {off : BitVec 12} (h : off.toNat % 4 = 0) (v : Word) :
    decode (writeAt off v) = decodeWrite off v :=
  decode_of_write ((Access.admitted_iff _).mpr ⟨rfl, h⟩) rfl

theorem decode_cmdAccess (c : Cmd) : decode (cmdAccess c) = .instr c.instr := by
  rw [cmdAccess, decode_writeAt rfl]
  simp [decodeWrite]

theorem decode_writeAt_illegal {w : Word} (h : legalCommand w = false) :
    decode (writeAt 0x010#12 w) = .instr (.wrCmd w) := by
  rw [decode_writeAt rfl]
  simp [decodeWrite, (decodeCmd_eq_none_iff w).mpr h]

/-- A CMD write by the command's word or, where that is illegal, by `wrCmd`; the other writes and the reads by the
register map. -/
theorem decode_encode {i : Instr} (h : WellFormed i = true) : decode (encode i) = .instr i := by
  cases i
  case nop => exact decode_cmdAccess .nop
  case setQuality imm => exact decode_cmdAccess (.setQuality imm)
  case wrCmd w => exact decode_writeAt_illegal (by simpa [WellFormed] using h)
  case wrStatus v | wrIrqEn v | wrWidth v | wrHeight v | wrPixAddr v | wrPixData v | wrOutAddr v =>
    exact decode_writeAt rfl v
  case rdQtY k | rdQtC k =>
    revert k
    decide
  all_goals rfl

/-- Settles O5, by the step's own equations and the decoder's answer on an instruction's own access. -/
theorem stepRunsTheDecodedInstruction : Obligations.StepRunsTheDecodedInstruction := by
  refine ⟨fun s a rest i hhost hdecode => ?_, fun s i hi => ?_, fun s => step_idle⟩
  · rw [step_event hhost, serve, hdecode]
  · rw [step_event (place_host _ _), serve, decode_encode hi]
    rfl

end Sys2Proof.Machine
end

section
/-! PROOFS. The memories: the window of the register space, the output RAM, and the pixel RAM (20_memory.md R60, R62,
R64). -/

namespace Sys2Proof.Machine

/-- Settles O9: below 4096 an offset is its own 12-bit value. -/
theorem unitBaseWindow : Obligations.UnitBaseWindow := by
  intro addr off
  have hoff : off.toNat < 4096 := off.isLt
  rw [unitOffset, Option.ite_none_right_eq_some, Option.some_inj, ← BitVec.toNat_inj, BitVec.toNat_ofNat]
  constructor <;> omega

/-- What OutAppend does with the first byte that finds no room. -/
theorem outAppend_overflow {cap : Nat} {w : Writer} (b : Byte) (h : cap ≤ w.out.length) (ho : w.ovf = false) :
    outAppend cap b w = { recordError .outOverflow w with ovf := true } := by
  rw [outAppend, if_neg (Nat.not_lt.mpr h), if_pos ho, recordError, recordError]
  cases he : w.err <;> rfl

/-- Settles O34: OutAppend's three cases, and OUT_OVERFLOW recorded as every error is. -/
theorem appendOrRecordOverflow : Obligations.AppendOrRecordOverflow := by
  intro s b
  refine ⟨outAppend_room b, fun hfull hovf => ?_, outAppend_full b⟩
  rw [outAppend_overflow b hfull hovf, ← refuseWith_wr, refuseWith_eq]
  rfl

/-- Settles O58: a read of the pixel RAM that finds no entry gives the free value, and a reset leaves no entry. -/
theorem unwrittenPixelsReadAFreeValue : Obligations.UnwrittenPixelsReadAFreeValue := by
  intro s
  refine ⟨fun i v hread => ?_, fun i hread => ?_, resetUnit s, rfl, fun i => rfl⟩
  · rw [pixWord, hread, Option.getD_some]
  · rw [pixWord, hread, Option.getD_none]

end Sys2Proof.Machine
end

section
/-! PROOFS. An access that decodes to an instruction is that instruction's own, and a word that decodes to a command is
that command's own (30_encoding.md R93, R95, R96; 10_state.md R43). -/

namespace Sys2Proof.Machine

/-- Settles O1: an instruction decodes from its own access, and a command from its own word. -/
theorem decodeInvertsEncode : Obligations.DecodeInvertsEncode :=
  ⟨fun _ => decode_encode, decodeCmd_encodeCmd⟩

/-! ## The command words -/

/-- A word is its fields IMM16, RSV and OPC, from the top (30_encoding.md R91). -/
theorem commandFields_append (w : Word) :
    w.extractLsb' 16 16 ++ (w.extractLsb' 8 8 ++ w.extractLsb' 0 8) = w := by
  have hlow : w.extractLsb' 8 8 ++ w.extractLsb' 0 8 = w.extractLsb' 0 16 :=
    BitVec.extractLsb'_append_extractLsb'_eq_extractLsb' rfl
  rw [hlow]
  exact BitVec.extractLsb'_append_extractLsb' (w := 16) (len := 16)

/-- A word that passes the checks of Decode has the fields of its command's word (30_encoding.md R95). -/
theorem encodeCmd_of_decodeCmd {w : Word} {c : Cmd} (h : decodeCmd w = some c) : encodeCmd c = w := by
  rw [← commandFields_append w]
  unfold decodeCmd at h
  generalize w.extractLsb' 16 16 = imm at h ⊢
  generalize w.extractLsb' 8 8 = rsv at h ⊢
  generalize w.extractLsb' 0 8 = opc at h ⊢
  simp only [Option.ite_none_left_eq_some] at h
  obtain ⟨-, hrsv, himm, h⟩ := h
  obtain rfl : rsv = 0#8 := not_not.mp hrsv
  by_cases hq : opc = 0x01#8
  · subst hq
    cases h
    rfl
  · obtain rfl : imm = 0#16 := by simpa [hq] using himm
    have hopc : BitVec.ofNat 8 opc.toNat = opc := (BitVec.ofNat_toNat 8 opc).trans (BitVec.setWidth_eq opc)
    rw [← hopc]
    split at h <;> cases h
    case h_2 hone => exact absurd (BitVec.eq_of_toNat_eq hone) hq
    all_goals
      rw [‹opc.toNat = _›]
      rfl

theorem decodeCmd_eq_some_iff {w : Word} {c : Cmd} : decodeCmd w = some c ↔ w = encodeCmd c :=
  ⟨fun h => (encodeCmd_of_decodeCmd h).symm, fun h => h ▸ decodeCmd_encodeCmd c⟩

/-- The word of SET_QUALITY by its halves (30_encoding.md R96). -/
theorem eq_encodeCmd_setQuality_iff {w : Word} {imm : BitVec 16} :
    w = encodeCmd (.setQuality imm) ↔ w.extractLsb' 0 16 = 0x0001#16 ∧ imm = w.extractLsb' 16 16 := by
  constructor
  · rintro rfl
    exact ⟨BitVec.extractLsb'_append_eq_right.symm ▸ rfl, BitVec.extractLsb'_append_eq_left.symm ▸ rfl⟩
  · rintro ⟨hlow, rfl⟩
    rw [encodeCmd, ← hlow]
    exact (BitVec.extractLsb'_append_extractLsb' (w := 16) (len := 16)).symm

/-- The ILLEGAL words are the words of no command. -/
theorem decodeCmd_eq_none_iff_ne {w : Word} : decodeCmd w = none ↔ ∀ c, w ≠ encodeCmd c := by
  simp only [Option.eq_none_iff_forall_ne_some, ne_eq, decodeCmd_eq_some_iff]

/-- Settles O3: a word decodes to a command exactly when it is the command's own. -/
theorem commandWordsAreExactlyThese : Obligations.CommandWordsAreExactlyThese := by
  intro w
  refine ⟨decodeCmd_eq_some_iff, decodeCmd_eq_some_iff, decodeCmd_eq_some_iff, decodeCmd_eq_some_iff,
    decodeCmd_eq_some_iff, decodeCmd_eq_some_iff, fun imm => decodeCmd_eq_some_iff.trans eq_encodeCmd_setQuality_iff,
    fun imm => ⟨encodeCmd (.setQuality imm), decodeCmd_encodeCmd _, fun u => decodeCmd_eq_some_iff.mp⟩, ?_⟩
  rw [decodeCmd_eq_none_iff_ne]
  constructor
  · intro h
    refine ⟨?_, fun hlow => h (.setQuality _) (eq_encodeCmd_setQuality_iff.mpr ⟨hlow, rfl⟩)⟩
    simpa using ⟨h .nop, h .start, h .block, h .tail, h .stop, h .dispose⟩
  · rintro ⟨hfixed, hlow⟩ c rfl
    cases c
    case setQuality imm => exact hlow (eq_encodeCmd_setQuality_iff.mp rfl).1
    all_goals exact hfixed (by decide)

/-! ## The register map -/

/-- The offset of entry `k` of a table window (40_commands.md R147). -/
theorem windowOffset_eq {off : BitVec 12} {page : BitVec 4} (halign : off.extractLsb' 0 2 = 0#2)
    (hpage : off.extractLsb' 8 4 = page) : page ++ off.extractLsb' 2 6 ++ 0#2 = off := by
  have hhigh : off.extractLsb' 8 4 ++ off.extractLsb' 2 6 = off.extractLsb' 2 10 :=
    BitVec.extractLsb'_append_extractLsb'_eq_extractLsb' rfl
  rw [← hpage, ← halign, hhigh]
  exact BitVec.extractLsb'_append_extractLsb' (w := 10) (len := 2)

theorem encode_of_decodeRead {off : BitVec 12} {i : Instr} (halign : off.extractLsb' 0 2 = 0#2)
    (h : decodeRead off = .instr i) : WellFormed i = true ∧ encode i = readAt off := by
  unfold decodeRead at h
  split at h
  next hpage =>
    cases h
    exact ⟨rfl, congrArg readAt (windowOffset_eq halign hpage)⟩
  split at h
  next hpage =>
    cases h
    exact ⟨rfl, congrArg readAt (windowOffset_eq halign hpage)⟩
  split at h <;> cases h
  all_goals exact ⟨rfl, congrArg readAt (BitVec.eq_of_toNat_eq (Eq.symm ‹off.toNat = _›))⟩

theorem wellFormed_cmdInstr (c : Cmd) : WellFormed c.instr = true := by
  cases c <;> rfl

theorem encode_cmdInstr (c : Cmd) : encode c.instr = cmdAccess c := by
  cases c <;> rfl

theorem wellFormed_wrCmd {w : Word} (h : decodeCmd w = none) : WellFormed (.wrCmd w) = true := by
  simp [WellFormed, (decodeCmd_eq_none_iff w).mp h]

theorem encode_of_decodeWrite {off : BitVec 12} {v : Word} {i : Instr} (h : decodeWrite off v = .instr i) :
    WellFormed i = true ∧ encode i = writeAt off v := by
  unfold decodeWrite at h
  split at h
  case h_1 hoff =>
    obtain rfl : off = 0x010#12 := BitVec.eq_of_toNat_eq hoff
    split at h <;> cases h
    case h_1 c hc => exact ⟨wellFormed_cmdInstr c, by rw [encode_cmdInstr, cmdAccess, encodeCmd_of_decodeCmd hc]⟩
    case h_2 hc => exact ⟨wellFormed_wrCmd hc, rfl⟩
  all_goals cases h
  all_goals exact ⟨rfl, congrArg (writeAt · v) (BitVec.eq_of_toNat_eq (Eq.symm ‹off.toNat = _›))⟩

/-- Settles O2: by the kind of the access, from the register map. -/
theorem encodeInvertsDecode : Obligations.EncodeInvertsDecode := by
  intro a i h
  have hadm : a.admitted = true := by
    by_contra hnot
    obtain ⟨r, hr⟩ := decode_of_not_admitted hnot
    rw [hr] at h
    nomatch h
  obtain ⟨hsize, halign⟩ := (Access.admitted_iff a).mp hadm
  obtain ⟨kind, off, size, data⟩ := a
  subst hsize
  cases kind with
  | read => exact encode_of_decodeRead ((lowBits_eq_zero_iff off).mpr halign) (decode_of_read hadm rfl ▸ h)
  | write => exact encode_of_decodeWrite (decode_of_write hadm rfl ▸ h)

end Sys2Proof.Machine
end

section
/-! PROOFS. The commands one by one but BLOCK and TAIL (40_commands.md R110 to R112, R115, R116, R118). -/

namespace Sys2Proof.Machine

/-- Settles O22: NOP's meaning is the state itself. -/
theorem nopChangesNothing : Obligations.NopChangesNothing := fun _ => rfl

/-! ## SET_QUALITY (40_commands.md R111) -/

/-- ZZ is a permutation of the 64 positions, and UNZZ its inverse (42_quant_zigzag.md R193). -/
theorem unzz_zz {i : Nat} (h : i < 64) : entry zz i < 64 ∧ entry unzz (entry zz i) = i := by
  revert i
  decide

/-- The table entry of natural index `i` stands at its zigzag position (42_quant_zigzag.md R192, R194). -/
theorem quantTable_entry (base : List Nat) (q : Nat) {i : Nat} (hi : i < 64) :
    (pick (quantTable base q) (entry zz i) 0#8).toNat = quantEntry (entry base i) (scaleFactor q) := by
  obtain ⟨hzz, hunzz⟩ := unzz_zz hi
  have hrange := quantEntry_range (entry base i) (scaleFactor q)
  rw [quantTable, pick_tabulate hzz, hunzz, BitVec.toNat_ofNat]
  omega

/-- Settles O23: the two effects of SET_QUALITY, by whether a session runs. -/
theorem setQualityAppliesOrDefers : Obligations.SetQualityAppliesOrDefers := by
  intro imm s
  dsimp only
  rw [← qualityOperand_toNat]
  by_cases hr : s.running = true
  · refine ⟨{ s with qPend := qualityOperand imm, qPending := true }, ?_, rfl, fun _ => rfl,
      fun hidle => absurd (hidle.symm.trans hr) Bool.false_ne_true⟩
    rw [exec, execSetQuality, if_pos hr]
  · refine ⟨applyQuality (qualityOperand imm).toNat
        { s with qPend := qualityOperand imm, qAct := qualityOperand imm }, ?_, rfl,
      fun hrun => absurd hrun hr, fun _ => ⟨rfl, fun i hi => ?_, rfl, rfl, rfl⟩⟩
    · rw [exec, execSetQuality, if_neg hr]
    · exact ⟨quantTable_entry yqt _ hi, quantTable_entry cqt _ hi⟩

/-! ## START (40_commands.md R112) -/

/-- START past its three checks. -/
theorem execStart_opens {s : State} (hr : s.running = false) (hw : s.width ≠ 0#16) (hh : s.height ≠ 0#16)
    (hfits : s.width.toNat * s.height.toNat ≤ s.par.maxPixels) :
    execStart s =
      .next { openSession s with wr := emitHeader (openSession s) (openSession s).wr, running := true } := by
  simp [execStart, hr, hw, hh, Nat.not_lt.mpr hfits]

/-- Settles O24: the checks in their order, and the header in an empty output RAM that has room for it. -/
theorem startOpensASession : Obligations.StartOpensASession := by
  intro s hpar
  refine ⟨fun hr => ?_, fun hr hzero => ?_, fun hr hw hh hlarge => ?_, fun hr hw hh hfits =>
    ⟨BitVec.ofNat 32 (s.width.toNat * s.height.toNat), ?_, ?_⟩⟩
  · rw [exec, execStart, if_pos hr, raiseUsageError_eq, errValue]
  · rw [exec, execStart, if_neg (by simp [hr]), if_pos hzero, raiseUsageError_eq, errValue]
  · rw [exec, execStart, if_neg (by simp [hr]), if_neg (by simp [hw, hh]), if_pos hlarge, raiseUsageError_eq, errValue]
  · rw [BitVec.toNat_ofNat, Nat.mod_eq_of_lt (image_lt _ _)]
  · rw [exec, execStart_opens hr hw hh hfits, emitHeader_openSession hpar]
    rfl

/-! ## STOP and DISPOSE (40_commands.md R115 to R117) -/

/-- The pending quality and its tables, field by field (40_commands.md R117). -/
theorem applyPending_eq (s : State) : applyPending s = { s with
    qAct := if s.qPending then s.qPend else s.qAct
    qPending := false
    qtY := if s.qPending then quantTable yqt s.qPend.toNat else s.qtY
    qtC := if s.qPending then quantTable cqt s.qPend.toNat else s.qtC
    fdY := if s.qPending then scaleTable (quantTable yqt s.qPend.toNat) else s.fdY
    fdC := if s.qPending then scaleTable (quantTable cqt s.qPend.toNat) else s.fdC } := by
  cases hp : s.qPending
  · simp only [applyPending_none hp, Bool.false_eq_true, if_false]
    rw [← hp]
  · rw [applyPending_some hp]
    simp [applyQuality]

/-- Settles O30: in a session STOP ends it and applies the pending quality. -/
theorem stopTruncates : Obligations.StopTruncates := by
  intro s
  refine ⟨fun hr => ?_, fun hr => ?_⟩
  · rw [exec, execStop, if_pos hr]
  · rw [exec, execStop, if_neg (by simp [hr]), applyPending_eq]

/-- Settles O31: a second DISPOSE finds the output empty. -/
theorem disposeEmptiesTheOutput : Obligations.DisposeEmptiesTheOutput := by
  intro s
  refine ⟨fun hr => ?_, fun hr => ?_, fun t ht => ?_⟩
  · rw [exec, execDispose, if_pos hr]
  · rw [exec, execDispose, if_neg (by simp [hr])]
  · obtain ⟨hr, rfl⟩ | ⟨hr, rfl⟩ := execDispose_next ht
    · exact ht
    · rw [exec, execDispose, if_neg (by simp [hr])]

/-! ## A CMD write (40_commands.md R118) -/

/-- Settles O32: the decoder gives the word's command, or `wrCmd` where there is none. -/
theorem cmdWriteDispatches : Obligations.CmdWriteDispatches := by
  intro s w
  refine ⟨fun c hc => ?_, fun hw => execWrCmd_illegal (by simpa [WellFormed] using hw) s, fun hnone => ?_⟩
  · obtain rfl := decodeCmd_eq_some_iff.mp hc
    rw [serve, ← cmdAccess, decode_cmdAccess]
  · rw [serve, decode_writeAt_illegal ((decodeCmd_eq_none_iff w).mp hnone)]

end Sys2Proof.Machine
end

section
/-! PROOFS. The register accesses (40_commands.md R131 to R147). -/

namespace Sys2Proof.Machine

/-! ## Ignored writes (40_commands.md R131) -/

/-- No writable register has a read-only or reserved offset (10_state.md R43). -/
theorem decodeWrite_ignored {off : BitVec 12} (h : readOnlyOffset off = true ∨ reservedOffset off = true) (v : Word) :
    decodeWrite off v = .ignoredWrite := by
  have hwritable : off.toNat ∉ [0x010, 0x014, 0x01C, 0x024, 0x028, 0x02C, 0x030, 0x048] := by
    simp only [readOnlyOffset, reservedOffset, List.contains_eq_mem, List.mem_cons, List.not_mem_nil, or_false,
      Bool.or_eq_true, Bool.and_eq_true, decide_eq_true_eq] at h ⊢
    omega
  unfold decodeWrite
  split
  rotate_right
  · rfl
  all_goals exact absurd ‹off.toNat = _› fun heq => hwritable (heq ▸ by decide)

/-- Settles O7: such a write decodes to an ignored one. -/
theorem writesToReadOnlyOffsetsAreIgnored : Obligations.WritesToReadOnlyOffsetsAreIgnored := by
  intro s off v halign hoff
  rw [serve, decode_writeAt halign, decodeWrite_ignored hoff]
  rfl

/-! ## STATUS and IRQ_EN (40_commands.md R134 to R136) -/

theorem getLsbD_bitAt {p : Nat} (hp : p < 32) (b : Bool) (i : Nat) : (bitAt p b).getLsbD i = (i == p && b) := by
  rcases Nat.lt_trichotomy i p with hlt | rfl | hgt
  · simp [bitAt, hlt, hlt.ne]
  · simp [bitAt, hp]
  · have hne : i - p ≠ 0 := by omega
    simp [bitAt, hne, hgt.ne']

/-- Settles O35, bit by bit. -/
theorem statusReadBits : Obligations.StatusReadBits := by
  intro s
  refine ⟨statusWord s, rfl, fun i => ?_⟩
  simp [statusWord, getLsbD_bitAt]

/-- Settles O36, by the two bits that clear. -/
theorem statusWriteClears : Obligations.StatusWriteClears := by
  intro s v
  rw [exec, execWrStatus, clearStatus]
  cases v.getLsbD 8 <;> cases v.getLsbD 16 <;> simp [clearErrors]

/-- Settles O37: IRQ_EN keeps the two low bits. -/
theorem irqEnAndOutAddrAreReadWrite : Obligations.IrqEnAndOutAddrAreReadWrite := by
  intro s v
  refine ⟨⟨v.extractLsb' 0 2, ?_, rfl⟩, ⟨s.irqEn.setWidth 32, ?_, rfl⟩, rfl, rfl⟩
  · rw [BitVec.extractLsb'_toNat, Nat.shiftRight_zero]
  · exact BitVec.toNat_setWidth_of_le (by decide)

/-! ## The size and address registers, the pixel port (40_commands.md R138, R139) -/

/-- Settles O39: the three writes end one way during a session and another while idle. -/
theorem sizeAndAddressRegisters : Obligations.SizeAndAddressRegisters := by
  intro s v
  refine ⟨fun hr i hi => ?_, fun hr => ⟨v.extractLsb' 0 16, ?_, ?_⟩, ⟨s.width.setWidth 32, ?_, rfl⟩,
    ⟨s.height.setWidth 32, ?_, rfl⟩, rfl⟩
  · have hrefuse (t : State) : writeWhileIdle s t = .next (withError 8#8 s) := by
      rw [writeWhileIdle, if_pos hr, raiseUsageError_eq, errValue]
    simp only [List.mem_cons, List.not_mem_nil, or_false] at hi
    obtain rfl | rfl | rfl := hi <;> exact hrefuse _
  · rw [BitVec.extractLsb'_toNat, Nat.shiftRight_zero]
  · have htake (t : State) : writeWhileIdle s t = .next t := by rw [writeWhileIdle, if_neg (by simp [hr])]
    exact ⟨htake _, htake _, htake _⟩
  · exact BitVec.toNat_setWidth_of_le (by decide)
  · exact BitVec.toNat_setWidth_of_le (by decide)

theorem add_one_eq_ofNat (a : Word) : a + 1#32 = BitVec.ofNat 32 (a.toNat + 1) := by
  rw [BitVec.ofNat_add, BitVec.ofNat_toNat, BitVec.setWidth_eq]

/-- Settles O40: the checks in their order, and one store in the pixel RAM. -/
theorem pixDataStoresOnePixel : Obligations.PixDataStoresOnePixel := by
  intro s v
  refine ⟨fun hr => ?_, fun hr hfull => ?_, fun hr hroom => ⟨{ pixStore s.pixAddr.toNat v s with
    pixAddr := s.pixAddr + 1#32 }, ?_, ?_, ?_, fun i hi => ?_, fun hwf => ?_⟩, rfl⟩
  · rw [exec, execWrPixData, if_pos hr, raiseUsageError_eq, errValue]
  · rw [exec, execWrPixData, if_neg (by simp [hr]), if_neg (Nat.not_lt.mpr hfull), raiseUsageError_eq, errValue]
  · rw [exec, execWrPixData, if_neg (by simp [hr]), if_pos hroom]
  · rw [add_one_eq_ofNat]
    rfl
  · exact pixWord_pixStore_same s.pixAddr.toNat v s
  · exact pixWord_pixStore_other v s hi
  · exact Memory.write_wf hwf s.pixAddr.toNat v

/-! ## Reads of values (40_commands.md R132, R133, R137, R140, R141, R145 to R147) -/

/-- Settles O43: parameters in their ranges fit 32 bits. -/
theorem constantAndErrorReads : Obligations.ConstantAndErrorReads := by
  intro s
  refine ⟨rfl, ⟨BitVec.ofNat 32 s.par.maxPixels, fun hpar => ?_, rfl⟩,
    ⟨BitVec.ofNat 32 s.par.maxOut, fun hpar => ?_, rfl⟩, rfl, rfl,
    s.wr.errCode.setWidth 32, BitVec.toNat_setWidth_of_le (by decide), rfl⟩
  all_goals
    obtain ⟨⟨-, hpix⟩, ⟨-, hout⟩, -⟩ := (Params.wf_iff s.par).mp hpar
    rw [BitVec.toNat_ofNat]
    exact Nat.mod_eq_of_lt ‹_›

/-- Settles O44: OUT_LEN by whether a session runs. -/
theorem progressReads : Obligations.ProgressReads := by
  intro s
  refine ⟨rfl, rfl, rfl, rfl, if s.running then 0#32 else BitVec.ofNat 32 s.wr.out.length, rfl, fun hr => if_pos hr,
    fun hr hlen => ?_⟩
  rw [if_neg (by simp [hr]), BitVec.toNat_ofNat, Nat.mod_eq_of_lt hlen]

/-- A field above the bits of another one: the value of both together. -/
theorem toNat_or_shiftLeft {x y : Word} {k : Nat} (hx : x.toNat < 2 ^ k) (hy : 2 ^ k * y.toNat < 2 ^ 32) :
    (x ||| y <<< k).toNat = x.toNat + 2 ^ k * y.toNat := by
  rw [Nat.mul_comm] at hy ⊢
  rw [BitVec.toNat_or, BitVec.toNat_shiftLeft, Nat.shiftLeft_eq, Nat.mod_eq_of_lt hy, Nat.or_comm, ← Nat.shiftLeft_eq,
    ← Nat.shiftLeft_add_eq_or_of_lt hx, Nat.add_comm]

/-- The value of QUALITY (10_state.md R49). -/
theorem toNat_qualityWord (a p : Byte) (b : Bool) :
    (a.setWidth 32 ||| p.setWidth 32 <<< 8 ||| bitAt 16 b).toNat = a.toNat + 2 ^ 8 * p.toNat + 2 ^ 16 * b.toNat := by
  have ha : (a.setWidth 32).toNat = a.toNat := BitVec.toNat_setWidth_of_le (by decide)
  have hp : (p.setWidth 32).toNat = p.toNat := BitVec.toNat_setWidth_of_le (by decide)
  have hb : ((BitVec.ofBool b).setWidth 32).toNat = b.toNat :=
    (BitVec.toNat_setWidth_of_le (by decide)).trans (BitVec.toNat_ofBool b)
  have hlow := toNat_or_shiftLeft (k := 8) (x := a.setWidth 32) (y := p.setWidth 32) (by omega) (by omega)
  have hb1 : b.toNat ≤ 1 := Bool.toNat_le b
  rw [bitAt, toNat_or_shiftLeft (by omega) (by omega), hlow, ha, hp, hb]

/-- The value of BITACC (40_commands.md R146). -/
theorem toNat_bitaccWord (n : Byte) (p : BitVec 3) :
    (n.setWidth 32 ||| p.setWidth 32 <<< 8).toNat = n.toNat + 2 ^ 8 * p.toNat := by
  have hn : (n.setWidth 32).toNat = n.toNat := BitVec.toNat_setWidth_of_le (by decide)
  have hp : (p.setWidth 32).toNat = p.toNat := BitVec.toNat_setWidth_of_le (by decide)
  rw [toNat_or_shiftLeft (by omega) (by omega), hn, hp]

/-- A predictor modulo 2^32 (40_commands.md R145). -/
theorem toNat_ofInt_word (v : Int) : ((BitVec.ofInt 32 v).toNat : Int) = v % 2 ^ 32 := by
  rw [BitVec.toNat_ofInt]
  omega

/-- An entry of a table window (40_commands.md R147). -/
theorem toNat_windowWord (qt : Vector Byte 64) (k : BitVec 6) :
    ((qt.toList.getD k.toNat 0#8).setWidth 32).toNat = (qt[k.toNat]'k.isLt).toNat := by
  rw [BitVec.toNat_setWidth_of_le (by decide)]
  exact congrArg BitVec.toNat (pick_eq_getElem qt k.isLt 0#8)

/-- Settles O45: the value of each read. -/
theorem carriedStateAndTableReads : Obligations.CarriedStateAndTableReads := fun s k =>
  ⟨⟨_, toNat_qualityWord s.qAct s.qPend s.qPending, rfl⟩, ⟨_, toNat_ofInt_word s.predY, rfl⟩,
    ⟨_, toNat_ofInt_word s.predCb, rfl⟩, ⟨_, toNat_ofInt_word s.predCr, rfl⟩,
    ⟨_, toNat_bitaccWord s.wr.byteNew s.wr.bytePos, rfl⟩, ⟨_, toNat_windowWord s.qtY k, rfl⟩,
    ⟨_, toNat_windowWord s.qtC k, rfl⟩⟩

/-! ## The readout (40_commands.md R143, R144) -/

/-- A read of OUT_DATA while idle, before the end of the output. -/
theorem execRdOutData_byte {s : State} (hr : s.running = false) (h : s.outAddr.toNat < s.wr.out.length) :
    execRdOutData s = .next { s with
      rdata := (s.wr.out[s.outAddr.toNat]).setWidth 32, outAddr := BitVec.ofNat 32 (s.outAddr.toNat + 1) } := by
  rw [execRdOutData, if_neg (by simp [hr, h]), List.getD_eq_getElem _ _ h, add_one_eq_ofNat]
  rfl

/-- Settles O41: the byte at OUT_ADDR, or 0. -/
theorem outDataReadsOneByte : Obligations.OutDataReadsOneByte := by
  intro s
  refine ⟨fun h => ?_, fun hr h =>
    ⟨(s.wr.out[s.outAddr.toNat]).setWidth 32, BitVec.toNat_setWidth_of_le (by decide), execRdOutData_byte hr h⟩⟩
  rw [exec, execRdOutData, if_pos h]
  rfl

/-- Reads of OUT_DATA one after the other return the bytes from OUT_ADDR on. -/
theorem readBytes_eq {s : State} (hr : s.running = false) (hlen : s.wr.out.length < 2 ^ 32) {n : Nat}
    (hn : s.outAddr.toNat + n ≤ s.wr.out.length) :
    (readBytes n s).1 = ((s.wr.out.drop s.outAddr.toNat).take n).map (·.setWidth 32) ∧
      ∃ r, (readBytes n s).2 = { s with rdata := r, outAddr := BitVec.ofNat 32 (s.outAddr.toNat + n) } := by
  induction n generalizing s with
  | zero => exact ⟨by simp [readBytes], s.rdata, by simp [readBytes]⟩
  | succ n ih =>
    have hroom : s.outAddr.toNat < s.wr.out.length := by omega
    have hread := execRdOutData_byte hr hroom
    have hnext : (BitVec.ofNat 32 (s.outAddr.toNat + 1)).toNat = s.outAddr.toNat + 1 := by
      rw [BitVec.toNat_ofNat]
      omega
    generalize hu : { s with rdata := _, outAddr := _ } = u at hread
    obtain ⟨hbytes, r, hlast⟩ := ih (s := u) (by rw [← hu]; exact hr) (by rw [← hu]; exact hlen)
      (by rw [← hu]; simp only [hnext]; omega)
    have hsucc : readBytes (n + 1) s = (u.rdata :: (readBytes n u).1, (readBytes n u).2) := by
      rw [readBytes, exec, hread]
    rw [hsucc, hbytes, hlast, ← hu]
    simp only [hnext]
    refine ⟨?_, r, by rw [Nat.add_assoc, Nat.add_comm 1]⟩
    rw [List.drop_eq_getElem_cons hroom, List.take_succ_cons, List.map_cons]

/-- From OUT_ADDR 0, as many reads as the output is long return it (40_commands.md R143). -/
theorem readBytes_whole {s : State} (hr : s.running = false) (hlen : s.wr.out.length < 2 ^ 32) (h0 : s.outAddr = 0#32) :
    (readBytes s.wr.out.length s).1 = s.wr.out.map (·.setWidth 32) ∧
      ∃ r, (readBytes s.wr.out.length s).2 =
        { s with rdata := r, outAddr := BitVec.ofNat 32 s.wr.out.length } := by
  have haddr : s.outAddr.toNat = 0 := congrArg BitVec.toNat h0
  have h := readBytes_eq hr hlen (n := s.wr.out.length) (by omega)
  rwa [haddr, List.drop_zero, List.take_length, Nat.zero_add] at h

/-- Settles O42: both passes start at OUT_ADDR 0 with the same output. -/
theorem readoutReturnsTheOutput : Obligations.ReadoutReturnsTheOutput := by
  intro s hr hlen
  dsimp only
  obtain ⟨hbytes, r, hlast⟩ := readBytes_whole (s := { s with outAddr := 0#32 }) hr hlen rfl
  have hvalue (b : Byte) : (b.setWidth 32).toNat = b.toNat := BitVec.toNat_setWidth_of_le (by decide)
  refine ⟨rfl, ?_, ⟨r, hlast⟩, ?_⟩
  · rw [hbytes, List.map_map]
    exact List.map_congr_left fun b _ => hvalue b
  · rw [hlast, hbytes]
    exact (readBytes_whole (s := { s with rdata := r, outAddr := 0#32 }) hr hlen rfl).1

end Sys2Proof.Machine
end

section
/-! PROOFS. TAIL: the padding of the last byte, EOI, and the end of the session (40_commands.md R114; 44_bitwriter.md
R266). -/

namespace Sys2Proof.Machine

/-! ## Padding with ones (44_bitwriter.md R266) -/

/-- With room for both bytes, a completed byte goes out with its stuffing (44_bitwriter.md R262). -/
theorem emitStuffed_room {cap : Nat} {w : Writer} (b : Byte) (h : w.out.length + 2 ≤ cap) :
    emitStuffed cap b w = { w with out := w.out ++ stuffByte b } := by
  unfold emitStuffed stuffByte
  split
  · rw [outAppend_room b (by omega),
      outAppend_room 0x00#8 (by simp only [List.length_append, List.length_singleton]; omega)]
    subst b
    simp
  · exact outAppend_room b (by omega)

/-- The ones that fill a byte from BYTE_POS `p` down. -/
def fillOnes (p : Nat) : Byte := BitVec.ofNat 8 (2 ^ (p + 1) - 1)

theorem or_fillOnes_succ {p : Nat} (h : p + 1 < 8) (b : Byte) :
    b ||| 1#8 <<< (p + 1) ||| fillOnes p = b ||| fillOnes (p + 1) := by
  have hsplit : ∀ p < 7, 1#8 <<< (p + 1) ||| fillOnes p = fillOnes (p + 1) := by decide
  rw [BitVec.or_assoc, hsplit p (by omega)]

/-- Ones for every bit that is left complete the byte. -/
theorem sendBits_ones {cap p v : Nat} (hp : p < 8) (hv : ∀ j ≤ p, v.testBit j = true) {w : Writer}
    (hw : w.bytePos.toNat = p) (hroom : w.out.length + 2 ≤ cap) :
    sendBits cap (p + 1) v w =
      { w with out := w.out ++ stuffByte (w.byteNew ||| fillOnes p), byteNew := 0#8, bytePos := 7#3 } := by
  induction p generalizing w with
  | zero =>
    have hpos : w.bytePos = 0#3 := BitVec.eq_of_toNat_eq hw
    rw [sendBits, sendBits, hv 0 le_rfl, sendBit, if_pos hpos, landBit, hpos, emitStuffed_room _ hroom]
    rfl
  | succ p ih =>
    have hpos : w.bytePos ≠ 0#3 := fun h0 => by rw [h0] at hw; cases hw
    have hbit : sendBit cap true w =
        { w with byteNew := w.byteNew ||| 1#8 <<< (p + 1), bytePos := w.bytePos - 1#3 } := by
      rw [sendBit, if_neg hpos, landBit, hw]
      rfl
    have hnext : (w.bytePos - 1#3).toNat = p := by
      rw [BitVec.toNat_sub, BitVec.toNat_ofNat, hw]
      omega
    have hrest := ih (by omega) (fun j hj => hv j (by omega))
      (w := { w with byteNew := w.byteNew ||| 1#8 <<< (p + 1), bytePos := w.bytePos - 1#3 }) hnext hroom
    rw [sendBits, hv (p + 1) le_rfl, hbit, hrest, or_fillOnes_succ hp]

/-- PutBits of the ones that are left. -/
theorem putBits_ones {cap : Nat} {w : Writer} (hroom : w.out.length + 2 ≤ cap) :
    putBits cap (w.bytePos.toNat + 1) (2 ^ (w.bytePos.toNat + 1) - 1) w = .ok { w with
      out := w.out ++ stuffByte (w.byteNew ||| fillOnes w.bytePos.toNat), byteNew := 0#8, bytePos := 7#3 } := by
  have hp : w.bytePos.toNat < 8 := w.bytePos.isLt
  have hpow : 0 < 2 ^ (w.bytePos.toNat + 1) := by positivity
  rw [putBits_eq w (by omega) (by omega), sendBits_ones hp (fun j hj => ?_) rfl hroom]
  rw [Nat.testBit_two_pow_sub_one]
  exact decide_eq_true (by omega)

/-- The bytes that TAIL's padding sends (44_bitwriter.md R266). -/
def padBytes (pad : TailPad) (w : Writer) : List Byte :=
  if w.bytePos ≠ 7#3 then stuffByte (w.byteNew ||| fillOnes w.bytePos.toNat)
  else if pad = .fullByte then [0xFF#8, 0x00#8] else []

/-- The padding leaves the accumulator as a reset does: with no bits pending it was so before. -/
theorem padToByte_room {cap : Nat} {w : Writer} (pad : TailPad) (hclear : accumulatorClear w)
    (hroom : w.out.length + 2 ≤ cap) :
    padToByte cap pad w = .ok { w with out := w.out ++ padBytes pad w, byteNew := 0#8, bytePos := 7#3 } := by
  unfold padToByte padBytes
  by_cases hpos : w.bytePos = 7#3
  · have hnew : w.byteNew = 0#8 := by
      apply BitVec.eq_of_toNat_eq
      rw [accumulatorClear, hpos] at hclear
      exact (Nat.mod_eq_of_lt w.byteNew.isLt).symm.trans hclear
    have hp : w.bytePos.toNat = 7 := congrArg BitVec.toNat hpos
    rw [if_neg (by omega), if_neg (not_not.mpr hpos)]
    cases pad with
    | none => simp [← hnew, ← hpos]
    | fullByte =>
      have hones := putBits_ones hroom
      rw [hp, hnew] at hones
      exact hones
  · have hp : w.bytePos.toNat ≠ 7 := fun h => hpos (BitVec.eq_of_toNat_eq h)
    rw [if_pos (by omega), if_pos hpos]
    exact putBits_ones hroom

theorem padBytes_length_le (pad : TailPad) (w : Writer) : (padBytes pad w).length ≤ 2 := by
  unfold padBytes stuffByte
  split
  · split <;> simp
  · split <;> simp

/-- EOI with room for it (45_framer.md R288). -/
theorem emitEoi_room {cap : Nat} {w : Writer} (h : w.out.length + 2 ≤ cap) :
    emitEoi cap w = { w with out := w.out ++ [0xFF#8, 0xD9#8] } :=
  emitRaws_room (wordBytes 0xFFD9#16) w h

/-! ## TAIL (40_commands.md R114) -/

/-- The end of a complete session, field by field. -/
theorem closeSession_eq (w : Writer) (s : State) : closeSession w s = { s with
    running := false
    consumed := false
    complete := true
    doneIp := true
    wr := emitEoi s.par.maxOut w
    qAct := if s.qPending then s.qPend else s.qAct
    qPending := false
    qtY := if s.qPending then quantTable yqt s.qPend.toNat else s.qtY
    qtC := if s.qPending then quantTable cqt s.qPend.toNat else s.qtC
    fdY := if s.qPending then scaleTable (quantTable yqt s.qPend.toNat) else s.fdY
    fdC := if s.qPending then scaleTable (quantTable cqt s.qPend.toNat) else s.fdC } := by
  rw [closeSession, applyPending_eq]

/-- TAIL past its two checks, with its padding known. -/
theorem execTail_pads {s : State} {w : Writer} (hr : s.running = true) (hc : s.consumed = true)
    (hw : padToByte s.par.maxOut s.par.tailPad s.wr = .ok w) : execTail s = .next (closeSession w s) := by
  rw [execTail, if_neg (by simp [hr]), if_neg (by simp [hc]), hw, orFault_ok]

/-- Settles O29: the padding always answers, and with room its bytes and EOI are known. -/
theorem tailCompletesTheStream : Obligations.TailCompletesTheStream := by
  intro s hr hc
  obtain ⟨w, hw⟩ := padToByte_total s.par.maxOut s.par.tailPad s.wr
  refine ⟨closeSession w s, execTail_pads hr hc hw, ?_, fun hroom hclear => ?_⟩
  · rw [closeSession_wr, closeSession_eq]
  · have hpad := padBytes_length_le s.par.tailPad s.wr
    rw [padToByte_room _ hclear (by omega)] at hw
    cases hw
    rw [closeSession_wr, emitEoi_room (by simp only [List.length_append]; omega)]
    rfl

end Sys2Proof.Machine
end

section
/-! PROOFS. Coding a data unit that is codable meets no fault point (43_entropy.md R220 to R232). -/

namespace Sys2Proof.Machine

/-! ## Categories and magnitude bits (43_entropy.md R220, R221) -/

theorem natAbs_lt_two_pow_category (v : Int) : v.natAbs < 2 ^ category v := by
  unfold category bitlen
  split
  · omega
  · exact Nat.lt_log2_self

theorem category_le_iff {v : Int} {n : Nat} : category v ≤ n ↔ v.natAbs < 2 ^ n := by
  unfold category bitlen
  split
  case isTrue h => simp [h]
  case isFalse h => exact Nat.succ_le_iff.trans (Nat.log2_lt h)

theorem category_eq_zero_iff {v : Int} : category v = 0 ↔ v = 0 := by
  rw [← Nat.le_zero, category_le_iff]
  omega

/-- The magnitude bits fit the category. -/
theorem magnitude_lt (v : Int) : magnitude v < 2 ^ category v := by
  have habs := natAbs_lt_two_pow_category v
  unfold magnitude
  split
  · omega
  · have hcast : (2 : Int) ^ category v = (2 ^ category v : Nat) := by push_cast; rfl
    rw [hcast]
    omega

/-! ## Symbols of the built tables (43_entropy.md R222, R224) -/

/-- The table has a code for the symbol, one that PutBits takes. -/
def HasCode (t : HuffSpec) (sym : Nat) : Prop :=
  ((lookupCode (buildTable t) sym).any fun c => decide (c.len ≤ 16) && decide (c.code < 2 ^ c.len)) = true

/-- The tables of a data unit: luma or chroma (43_entropy.md R228). -/
def UnitTables (dc ac : HuffSpec) : Prop := (dc = dcLuma ∧ ac = acLuma) ∨ (dc = dcChroma ∧ ac = acChroma)

theorem hasCode_dc {dc ac : HuffSpec} (ht : UnitTables dc ac) {cat : Nat} (h : cat ≤ 11) : HasCode dc cat := by
  have hluma : ∀ cat < 12, HasCode dcLuma cat := by unfold HasCode; decide +kernel
  have hchroma : ∀ cat < 12, HasCode dcChroma cat := by unfold HasCode; decide +kernel
  obtain ⟨rfl, -⟩ | ⟨rfl, -⟩ := ht
  · exact hluma cat (by omega)
  · exact hchroma cat (by omega)

/-- The AC symbols: a run with a category from 1 on, and for category 0 EOB and ZRL. -/
theorem hasCode_ac {dc ac : HuffSpec} (ht : UnitTables dc ac) {run cat : Nat} (hrun : run < 16) (hcat : cat ≤ 10)
    (hzero : cat = 0 → run = 0 ∨ run = 15) : HasCode ac (run * 16 + cat) := by
  have hluma : ∀ r < 16, ∀ c < 11, (c = 0 → r = 0 ∨ r = 15) → HasCode acLuma (r * 16 + c) := by
    unfold HasCode
    decide +kernel
  have hchroma : ∀ r < 16, ∀ c < 11, (c = 0 → r = 0 ∨ r = 15) → HasCode acChroma (r * 16 + c) := by
    unfold HasCode
    decide +kernel
  obtain ⟨-, rfl⟩ | ⟨-, rfl⟩ := ht
  · exact hluma run hrun cat (by omega) hzero
  · exact hchroma run hrun cat (by omega) hzero

/-! ## Coding answers (43_entropy.md R229 to R232) -/

theorem putCode_total (cap : Nat) {t : HuffSpec} {sym : Nat} (h : HasCode t sym) (w : Writer) :
    ∃ w', putCode cap (buildTable t) sym w = .ok w' := by
  unfold HasCode at h
  rw [putCode]
  cases hc : lookupCode (buildTable t) sym with
  | none => simp [hc] at h
  | some c =>
    obtain ⟨hlen, hcode⟩ : c.len ≤ 16 ∧ c.code < 2 ^ c.len := by simpa [hc] using h
    exact ⟨_, putBits_eq w hlen hcode⟩

theorem putValue_total (cap : Nat) {t : HuffSpec} {sym : Nat} (h : HasCode t sym) {v : Int} (hv : category v ≤ 16)
    (w : Writer) : ∃ w', putValue cap (buildTable t) sym v w = .ok w' := by
  obtain ⟨u, hu⟩ := putCode_total cap h w
  rw [putValue, hu, andThen_ok]
  split
  · exact ⟨u, rfl⟩
  · exact ⟨_, putBits_eq u hv (magnitude_lt v)⟩

theorem encodeDc_total (cap : Nat) {dc ac : HuffSpec} (ht : UnitTables dc ac) {diff : Int} (h : diff.natAbs ≤ 2047)
    (w : Writer) : ∃ w', encodeDc cap (buildTable dc) diff w = .ok w' := by
  have hcat : category diff ≤ 11 := category_le_iff.mpr (by omega)
  exact putValue_total cap (hasCode_dc ht hcat) (by omega) w

theorem putZrls_total (cap : Nat) {dc ac : HuffSpec} (ht : UnitTables dc ac) (n : Nat) (w : Writer) :
    ∃ w', putZrls cap (buildTable ac) n w = .ok w' := by
  induction n generalizing w with
  | zero => exact ⟨w, rfl⟩
  | succ n ih =>
    have hcode := hasCode_ac ht (run := 15) (cat := 0) (by decide) (by decide) fun _ => .inr rfl
    obtain ⟨u, hu⟩ := putCode_total cap hcode w
    rw [putZrls, hu, andThen_ok]
    exact ih u

theorem scanAc_total (cap : Nat) {dc ac : HuffSpec} (ht : UnitTables dc ac) {vs : List Int}
    (hvs : ∀ v ∈ vs, v.natAbs ≤ 1023) (run : Nat) (w : Writer) :
    ∃ w', scanAc cap (buildTable ac) vs run w = .ok w' := by
  induction vs generalizing run w with
  | nil => exact ⟨w, rfl⟩
  | cons v vs ih =>
    obtain ⟨hv, hvs⟩ := List.forall_mem_cons.mp hvs
    rw [scanAc]
    split
    case isTrue => exact ih hvs (run + 1) w
    case isFalse hne =>
      have hcat : category v ≤ 10 := category_le_iff.mpr (by omega)
      have hcode := hasCode_ac ht (Nat.mod_lt run (by decide)) hcat fun h0 => absurd (category_eq_zero_iff.mp h0) hne
      obtain ⟨u, hu⟩ := putZrls_total cap ht (run / 16) w
      obtain ⟨x, hx⟩ := putValue_total cap hcode (v := v) (by omega) u
      rw [hu, andThen_ok, hx, andThen_ok]
      exact ih hvs 0 x

theorem encodeAc_total (cap : Nat) {dc ac : HuffSpec} (ht : UnitTables dc ac) {du : Vector Int 64}
    (h : ∀ k, 1 ≤ k → k < 64 → (pick du k 0).natAbs ≤ 1023) (w : Writer) :
    ∃ w', encodeAc cap (buildTable ac) du w = .ok w' := by
  have hvs : ∀ v ∈ (du.toList.take (lastNonzero du + 1)).drop 1, v.natAbs ≤ 1023 := by
    intro v hv
    rw [List.drop_take] at hv
    obtain ⟨k, hk, rfl⟩ := List.mem_iff_getElem.mp (List.mem_of_mem_take hv)
    rw [List.length_drop, Vector.length_toList] at hk
    have hpick := h (k + 1) (by omega) (by omega)
    rw [pick_eq_getElem du (by omega)] at hpick
    simpa using hpick
  obtain ⟨u, hu⟩ := scanAc_total cap ht hvs 0 w
  rw [encodeAc, hu, andThen_ok]
  split
  · exact ⟨u, rfl⟩
  · exact putCode_total cap (hasCode_ac ht (run := 0) (cat := 0) (by decide) (by decide) fun _ => .inl rfl) u

theorem codeUnit_total (cap : Nat) {dc ac : HuffSpec} (ht : UnitTables dc ac) {pred : Int} {du : Vector Int 64}
    (h : codable pred du) (w : Writer) : ∃ w', codeUnit cap dc ac pred du w = .ok w' := by
  obtain ⟨hdc, hac⟩ := h
  obtain ⟨u, hu⟩ := encodeDc_total cap ht hdc w
  rw [codeUnit, hu, andThen_ok]
  exact encodeAc_total cap ht hac u

/-- One MCU of codable data units (43_entropy.md R228). -/
theorem codeUnits_total {s : State} {y cb cr : Vector Int 64} (hy : codable s.predY y) (hcb : codable s.predCb cb)
    (hcr : codable s.predCr cr) : ∃ w, codeUnits s y cb cr = .ok w := by
  obtain ⟨u, hu⟩ := codeUnit_total s.par.maxOut (.inl ⟨rfl, rfl⟩) hy s.wr
  obtain ⟨v, hv⟩ := codeUnit_total s.par.maxOut (.inr ⟨rfl, rfl⟩) hcb u
  obtain ⟨w, hw⟩ := codeUnit_total s.par.maxOut (.inr ⟨rfl, rfl⟩) hcr v
  exact ⟨w, by rw [codeUnits, hu, andThen_ok, hv, andThen_ok, hw]⟩

end Sys2Proof.Machine
end

section
/-! PROOFS. A BLOCK, and the blocks of a session (40_commands.md R113, R119, R120; 30_encoding.md R98). -/

namespace Sys2Proof.Machine

/-! ## One block -/

/-- BLOCK past its two checks, with the cursor in the image. -/
theorem execBlock_encodes {s : State} (hr : s.running = true) (hc : s.consumed = false)
    (hx : s.curX.toNat < s.width.toNat) (hy : s.curY.toNat < s.height.toNat) : execBlock s = encodeBlock s := by
  rw [execBlock, if_neg (by simp [hr]), if_neg (by simp [hc]), if_neg (by simp [cursorInImage, hx, hy])]

/-- The cursor after the block at the cursor, with the cursor in the image. -/
theorem nextCursor_eq {s : State} (hx : s.curX.toNat < s.width.toNat) (hy : s.curY.toNat < s.height.toNat) :
    if s.width.toNat ≤ s.curX.toNat + 8 then (nextCurX s).toNat = 0 ∧ (nextCurY s).toNat = s.curY.toNat + 8
    else (nextCurX s).toNat = s.curX.toNat + 8 ∧ nextCurY s = s.curY := by
  have hw : s.width.toNat < 2 ^ 16 := s.width.isLt
  have hh : s.height.toNat < 2 ^ 16 := s.height.isLt
  have hX := toNat_add_eight (c := s.curX) (by omega)
  have hY := toNat_add_eight (c := s.curY) (by omega)
  rw [nextCurX, nextCurY, hX]
  split
  · exact ⟨rfl, hY⟩
  · exact ⟨hX, rfl⟩

/-- Settles O26: the coding answers, and then the state is that after the block. -/
theorem blockCodesTheMcu : Obligations.BlockCodesTheMcu := by
  intro s y cb cr hr hc hx hy hunits hcy hcb hcr
  obtain ⟨w, hw⟩ := codeUnits_total hcy hcb hcr
  refine ⟨w, nextCurX s, nextCurY s, hw, nextCursor_eq hx hy, ?_⟩
  rw [exec, execBlock_encodes hr hc hx hy, encodeBlock_ok hunits hw, closeBlock, advanceCursor, hc, Bool.false_or]
  rfl

/-! ## The blocks of a session -/

/-- The unit stands in a session at block `k` of a `w` by `h` image, counted in raster order; past the last row of
blocks the image is consumed. -/
structure AtBlock (w h : BitVec 16) (k : Nat) (s : State) : Prop where
  inv : Inv s
  running : s.running = true
  image : s.width = w ∧ s.height = h
  curX : s.curX.toNat = 8 * (k % ((w.toNat + 7) / 8))
  curY : s.curY.toNat = 8 * (k / ((w.toNat + 7) / 8))
  consumed : s.consumed = decide ((h.toNat + 7) / 8 ≤ k / ((w.toNat + 7) / 8))

/-- The rows of blocks are done exactly when all blocks are. -/
theorem rows_le_div_iff {w h k : Nat} (hw : 0 < w) :
    (h + 7) / 8 ≤ k / ((w + 7) / 8) ↔ (w + 7) / 8 * ((h + 7) / 8) ≤ k := by
  rw [Nat.le_div_iff_mul_le (by omega), Nat.mul_comm]

/-- The block after block `k` in raster order, of `cols` blocks in a row. -/
theorem raster_succ {cols k : Nat} (hcols : 0 < cols) :
    (k % cols + 1 = cols ∧ (k + 1) % cols = 0 ∧ (k + 1) / cols = k / cols + 1) ∨
    (k % cols + 1 < cols ∧ (k + 1) % cols = k % cols + 1 ∧ (k + 1) / cols = k / cols) := by
  have hk := Nat.div_add_mod k cols
  have hlt := Nat.mod_lt k hcols
  rcases Nat.eq_or_lt_of_le (show k % cols + 1 ≤ cols from hlt) with heq | hmore
  · have hsucc : k + 1 = cols * (k / cols + 1) := by rw [Nat.mul_add]; omega
    exact .inl ⟨heq, by rw [hsucc, Nat.mul_mod_right], by rw [hsucc, Nat.mul_div_cancel_left _ hcols]⟩
  · have hsucc : k + 1 = (k % cols + 1) + cols * (k / cols) := by omega
    refine .inr ⟨hmore, ?_, ?_⟩
    · rw [hsucc, Nat.add_mul_mod_self_left, Nat.mod_eq_of_lt hmore]
    · rw [hsucc, Nat.add_mul_div_left _ _ hcols, Nat.div_eq_of_lt hmore, Nat.zero_add]

/-- In raster order, the cursor goes from block `k` of the image to the next one. -/
theorem nextCursor_raster {s : State} {k : Nat} (hx : s.curX.toNat < s.width.toNat) (hy : s.curY.toNat < s.height.toNat)
    (hX : s.curX.toNat = 8 * (k % ((s.width.toNat + 7) / 8)))
    (hY : s.curY.toNat = 8 * (k / ((s.width.toNat + 7) / 8))) :
    (nextCurX s).toNat = 8 * ((k + 1) % ((s.width.toNat + 7) / 8)) ∧
      (nextCurY s).toNat = 8 * ((k + 1) / ((s.width.toNat + 7) / 8)) := by
  have hnext := nextCursor_eq hx hy
  have hcols : 0 < (s.width.toNat + 7) / 8 := by omega
  obtain ⟨hlast, hmod, hdiv⟩ | ⟨hmore, hmod, hdiv⟩ := raster_succ (k := k) hcols <;> rw [hmod, hdiv]
  · rw [if_pos (by omega)] at hnext
    omega
  · rw [if_neg (by omega)] at hnext
    rw [hnext.2]
    omega

/-- A BLOCK that finds blocks left leads to the next one. -/
theorem AtBlock.step {w h : BitVec 16} {k : Nat} {s t : State} (hs : AtBlock w h k s) (hc : s.consumed = false)
    (ht : exec .block s = .next t) : AtBlock w h (k + 1) t := by
  obtain ⟨hinv, hr, ⟨rfl, rfl⟩, hX, hY, -⟩ := hs
  obtain ⟨-, -, -, hcursor, -⟩ := hinv.session hr
  obtain ⟨hx, hy, -⟩ := hcursor hc
  obtain ⟨hX', hY'⟩ := nextCursor_raster hx hy hX hY
  have hinv' := execBlock_inv hinv ht
  obtain ⟨hidle, -⟩ | ⟨-, hout, -⟩ | ⟨-, -, -, y, cb, cr, w, -, -, rfl⟩ := execBlock_next ht
  · exact absurd (hidle.symm.trans hr) Bool.false_ne_true
  · exact absurd (hc.symm.trans hout) Bool.false_ne_true
  · refine ⟨hinv', hr, ⟨rfl, rfl⟩, hX', hY', ?_⟩
    rw [closeBlock_consumed, hc, Bool.false_or, hY']
    exact decide_eq_decide.mpr (by omega)

/-- As many BLOCKs as are left at most. -/
theorem AtBlock.blocks {w h : BitVec 16} (hw : 0 < w.toNat) {k n : Nat} {s t : State} (hs : AtBlock w h k s)
    (hn : k + n ≤ (w.toNat + 7) / 8 * ((h.toNat + 7) / 8)) (ht : Machine.blocks n s = some t) :
    AtBlock w h (k + n) t := by
  induction n generalizing s k with
  | zero =>
    cases ht
    exact hs
  | succ n ih =>
    rw [Machine.blocks] at ht
    split at ht
    case h_1 u hu =>
      have hleft : s.consumed = false := by
        rw [hs.consumed, decide_eq_false_iff_not, rows_le_div_iff hw]
        omega
      have := ih (hs.step hleft hu) (by omega) ht
      rwa [Nat.add_assoc, Nat.add_comm 1] at this
    all_goals cases ht

/-- Settles O28: the session starts at block 0, and each BLOCK leads to the next. -/
theorem blocksOfASessionCoverTheImage : Obligations.BlocksOfASessionCoverTheImage := by
  intro s t n hinv hr hc hx hy ht
  dsimp only
  obtain ⟨-, -, -, hcursor, -⟩ := hinv.session hr
  obtain ⟨hw, hh, -⟩ := hcursor hc
  rw [hx] at hw
  rw [hy] at hh
  have hstart : AtBlock s.width s.height 0 s := by
    refine ⟨hinv, hr, ⟨rfl, rfl⟩, ?_, ?_, ?_⟩
    · rw [hx, Nat.zero_mod]
      rfl
    · rw [hy, Nat.zero_div]
      rfl
    · rw [hc, Nat.zero_div]
      exact (decide_eq_false (by omega)).symm
  have hreached (hn : n ≤ (s.width.toNat + 7) / 8 * ((s.height.toNat + 7) / 8)) : AtBlock s.width s.height n t := by
    have := hstart.blocks hw (by omega) ht
    rwa [Nat.zero_add] at this
  refine ⟨fun hlt => ?_, fun heq => ?_⟩
  · obtain ⟨-, hrt, -, hX, hY, hct⟩ := hreached hlt.le
    refine ⟨hrt, ?_, hX, hY⟩
    rw [hct, decide_eq_false_iff_not, rows_le_div_iff hw]
    omega
  · obtain ⟨hinvt, hrt, ⟨hwt, hht⟩, -, -, hct⟩ := hreached heq.le
    have hdone : t.consumed = true := by
      rw [hct, decide_eq_true_eq, rows_le_div_iff hw]
      exact heq.ge
    obtain ⟨-, htotal, -, -, hend⟩ := hinvt.session hrt
    obtain ⟨hX, hY, hall⟩ := hend hdone
    rw [hht] at hY
    rw [hwt, hht] at htotal
    refine ⟨hrt, hdone, congrArg BitVec.toNat hX, hY, hall, htotal, ?_⟩
    rw [exec, execBlock, if_neg (by simp [hrt]), if_pos hdone, raiseUsageError_eq, errValue]

end Sys2Proof.Machine
end

section
/-! PROOFS. The samples of a block: the pixels they come from (41_color_fdct.md R161, R162), and the range of any
pixel's samples (R163, R165), in units of 2^-45, which is the binary place 1029. -/

namespace Sys2Proof.Machine

/-! ## The edge clamp (41_color_fdct.md R161, R162) -/

theorem edgeClamp_lt {cur size : Nat} (k : Nat) (h : cur < size) : edgeClamp cur size k < size := by
  unfold edgeClamp
  omega

/-- The index of row y and column x in raster order, inside the image. -/
theorem raster_index_lt {x y w h : Nat} (hx : x < w) (hy : y < h) : y * w + x < w * h := by
  have hrows := Nat.mul_le_mul_right w (Nat.succ_le_of_lt hy)
  rw [Nat.succ_mul, Nat.mul_comm h] at hrows
  omega

theorem sampleIndex_lt {s : State} (hx : s.curX.toNat < s.width.toNat) (hy : s.curY.toNat < s.height.toNat) (i : Nat) :
    sampleIndex s i < s.width.toNat * s.height.toNat :=
  raster_index_lt (edgeClamp_lt (i % 8) hx) (edgeClamp_lt (i / 8) hy)

/-- The fetch meets no fault where every index lies in the pixel RAM. -/
theorem fetchWords_ok {s : State} (h : ∀ i < 64, sampleIndex s i < s.par.maxPixels) :
    fetchWords s = .ok (tabulate 64 fun i => pixWord s (sampleIndex s i)) :=
  if_pos (List.all_eq_true.mpr fun i hi => decide_eq_true (h i (List.mem_range.mp hi)))

/-- Settles O51: each clamped coordinate lies in the image, so their index does. -/
theorem edgeClampStaysInTheImage : Obligations.EdgeClampStaysInTheImage := by
  intro s hx hy
  refine ⟨fun r c _ hc => ⟨?_, sampleIndex_lt hx hy _⟩, fun hfit => ?_⟩
  · have hrow : (8 * r + c) / 8 = r := by omega
    have hcol : (8 * r + c) % 8 = c := by omega
    rw [sampleIndex, hrow, hcol, edgeClamp, edgeClamp]
  · exact ⟨_, fetchWords_ok fun i _ => (sampleIndex_lt hx hy i).trans_le hfit, fun i hi => pick_tabulate hi _ _⟩

/-! ## The range of the samples (41_color_fdct.md R163, R165) -/

/-- A colour constant in units of 2^-53, so that 255 of them are known to within one unit of 2^-45. -/
theorem micro_between_fine {num : Nat} (h : num ≤ 600000) :
    Between 1021 0 (num * 2 ^ 53 / 1000000 + 1) (micro num) :=
  f64Lit_between (p := 53) (by decide) (by decide) (by decide) (by omega) (by omega) (by omega)

/-- A value times an 8-bit field, rounded to a place 8 above the value's. -/
theorem mul_byte_between {e : Nat} {lo hi lo' hi' : Int} {c : F64} (hc : Between e lo hi c) (b : Byte) (he : e ≤ 2036)
    (hl0 : lo ≤ 0) (hh0 : 0 ≤ hi) (hlo : lo'.natAbs < 2 ^ 53) (hhi : hi'.natAbs < 2 ^ 53) (hl : lo' * 2 ^ 8 ≤ lo * 255)
    (hh : hi * 255 ≤ hi' * 2 ^ 8) : Between (e + 8) lo' hi' (fmul c (f64OfByte b)) := by
  obtain ⟨hcf, hcl, hch⟩ := hc
  obtain ⟨hbf, hbl, hbh⟩ := f64OfByte_between b
  rw [zero_mul] at hbl
  rw [← f64One_cast] at hbh
  have hunit : (0 : Int) ≤ 2 ^ e * f64One := mul_nonneg (by positivity) (Int.natCast_nonneg _)
  have hplace (n : Int) : n * 2 ^ (e + 8) * f64One = n * 2 ^ 8 * (2 ^ e * f64One) := by
    rw [pow_add]
    ring
  have hneg : lo * 2 ^ e ≤ 0 := mul_nonpos_of_nonpos_of_nonneg hl0 (by positivity)
  have hpos : 0 ≤ hi * 2 ^ e := mul_nonneg hh0 (by positivity)
  refine fmul_between_of_le hcf hbf (by omega) hlo hhi ?_ ?_ <;> rw [hplace]
  · calc lo' * 2 ^ 8 * (2 ^ e * (f64One : Int)) ≤ lo * 255 * (2 ^ e * f64One) := mul_le_mul_of_nonneg_right hl hunit
      _ = lo * 2 ^ e * (255 * f64One) := by ring
      _ ≤ lo * 2 ^ e * f64Units (f64OfByte b) := mul_le_mul_of_nonpos_left hbh hneg
      _ ≤ f64Units c * f64Units (f64OfByte b) := mul_le_mul_of_nonneg_right hcl hbl
  · calc f64Units c * f64Units (f64OfByte b) ≤ hi * 2 ^ e * f64Units (f64OfByte b) :=
        mul_le_mul_of_nonneg_right hch hbl
      _ ≤ hi * 2 ^ e * (255 * f64One) := mul_le_mul_of_nonneg_left hbh hpos
      _ = hi * 255 * (2 ^ e * f64One) := by ring
      _ ≤ hi' * 2 ^ 8 * (2 ^ e * f64One) := mul_le_mul_of_nonneg_right hh hunit

/-- The bound of a colour constant times an 8-bit field, in units of 2^-45. -/
def termBound (num : Nat) : Int := num * 255 * 2 ^ 45 / 1000000 + 2

/-- It is in range, and covers 255 times the bound of the constant. -/
theorem termBound_spec {num : Nat} (h : num ≤ 600000) :
    (termBound num).natAbs < 2 ^ 53 ∧ ((num : Int) * 2 ^ 53 / 1000000 + 1) * 255 ≤ termBound num * 2 ^ 8 := by
  unfold termBound
  omega

/-- A colour constant times an 8-bit field. -/
theorem mul_micro_between_fine {num : Nat} (h : num ≤ 600000) (b : Byte) :
    Between 1029 0 (termBound num) (fmul (micro num) (f64OfByte b)) := by
  obtain ⟨hrange, hcovers⟩ := termBound_spec h
  exact mul_byte_between (micro_between_fine h) b (by decide) (by decide) (by omega) (by decide) hrange (by decide)
    hcovers

/-- A negated colour constant times an 8-bit field. -/
theorem mul_neg_micro_between_fine {num : Nat} (h : num ≤ 600000) (b : Byte) :
    Between 1029 (-termBound num) 0 (fmul (fneg (micro num)) (f64OfByte b)) := by
  obtain ⟨hrange, hcovers⟩ := termBound_spec h
  exact mul_byte_between (fneg_between (micro_between_fine h)) b (by decide) (by omega) (by decide) (by omega)
    (by decide) (by omega) (by decide)

/-- Y lies in -128..127 up to 2^-40, and never below -128: the three terms are not negative. -/
theorem lumaOf_between_fine (p : Word) : Between 1029 (-128 * 2 ^ 45) (127 * 2 ^ 45 + 2 ^ 5) (lumaOf p) := by
  have hr := mul_micro_between_fine (num := 299000) (by decide) (redOf p)
  have hg := mul_micro_between_fine (num := 587000) (by decide) (greenOf p)
  have hb := mul_micro_between_fine (num := 114000) (by decide) (blueOf p)
  have hrg := fadd_between hr hg (by decide) (by decide) (by decide)
  have hrgb := fadd_between hrg hb (by decide) (by decide) (by decide)
  have h128 := (f64OfNat_between (n := 128) (by decide)).finer (e := 1029) 45
  exact (fsub_between hrgb h128 (by decide) (by decide) (by decide)).mono (by decide) (by decide)

/-- The greatest magnitude of a chroma sample, in units of 2^-45: 127.5 and 2^-41. -/
def chromaBound : Int := 255 * 2 ^ 44 + 2 ^ 4

theorem cbOf_between_fine (p : Word) : Between 1029 (-chromaBound) chromaBound (cbOf p) := by
  have hr := mul_neg_micro_between_fine (num := 168736) (by decide) (redOf p)
  have hg := mul_neg_micro_between_fine (num := 331264) (by decide) (greenOf p)
  have hb := mul_micro_between_fine (num := 500000) (by decide) (blueOf p)
  have hrg := fadd_between hr hg (by decide) (by decide) (by decide)
  exact (fadd_between hrg hb (by decide) (by decide) (by decide)).mono (by decide) (by decide)

theorem crOf_between_fine (p : Word) : Between 1029 (-chromaBound) chromaBound (crOf p) := by
  have hr := mul_micro_between_fine (num := 500000) (by decide) (redOf p)
  have hg := mul_neg_micro_between_fine (num := 418688) (by decide) (greenOf p)
  have hb := mul_neg_micro_between_fine (num := 81312) (by decide) (blueOf p)
  have hrg := fadd_between hr hg (by decide) (by decide) (by decide)
  exact (fadd_between hrg hb (by decide) (by decide) (by decide)).mono (by decide) (by decide)

/-- 1.0 and the margin 2^-40 in units of 2^-45. -/
theorem f64One_in_units : ∃ unit : Int, 2 ^ 1029 = unit ∧ (f64One : Int) = 2 ^ 45 * unit ∧
    (f64One : Int) / 2 ^ 40 = 2 ^ 5 * unit := by
  refine ⟨_, rfl, ?_, ?_⟩
  · rw [f64One_cast, ← pow_add]
  · have hone : (f64One : Int) = 2 ^ 40 * (2 ^ 5 * 2 ^ 1029) := by rw [f64One_cast, ← pow_add, ← pow_add]
    rw [hone, Int.mul_ediv_cancel_left _ (by decide)]

theorem two_mul_abs_le_of_chroma {x : F64} (h : Between 1029 (-chromaBound) chromaBound x) :
    2 * |f64Units x| ≤ 255 * f64One + f64One / 2 ^ 40 := by
  obtain ⟨-, hlo, hhi⟩ := h
  obtain ⟨unit, hunit, hone, hmargin⟩ := f64One_in_units
  rw [hunit, chromaBound] at hlo hhi
  have habs : |f64Units x| ≤ (255 * 2 ^ 44 + 2 ^ 4) * unit := abs_le.mpr ⟨by rwa [← neg_mul], hhi⟩
  omega

/-- A pixel word with another alpha byte has the same colour fields. -/
theorem extractLsb'_withAlpha (alpha : Byte) (p : Word) {start : Nat} (h : start + 8 ≤ 24) :
    (alpha ++ p.extractLsb' 0 24).extractLsb' start 8 = p.extractLsb' start 8 := by
  rw [BitVec.extractLsb'_append_eq_of_add_le h, BitVec.extractLsb'_extractLsb'_of_le h]

/-- Settles O50: the bounds of the three samples in units of 2^-45, and the fields they are computed from. -/
theorem samplesLieInRange : Obligations.SamplesLieInRange := by
  intro p alpha
  have hcb := cbOf_between_fine p
  have hcr := crOf_between_fine p
  obtain ⟨hfin, hlo, hhi⟩ := lumaOf_between_fine p
  obtain ⟨unit, hunit, hone, hmargin⟩ := f64One_in_units
  rw [hunit] at hlo hhi
  refine ⟨⟨hfin, hcb.1, hcr.1⟩, ⟨by omega, by omega⟩,
    ⟨two_mul_abs_le_of_chroma hcb, two_mul_abs_le_of_chroma hcr⟩, ?_⟩
  have hr : redOf (alpha ++ p.extractLsb' 0 24) = redOf p := extractLsb'_withAlpha alpha p (by decide)
  have hg : greenOf (alpha ++ p.extractLsb' 0 24) = greenOf p := extractLsb'_withAlpha alpha p (by decide)
  have hb : blueOf (alpha ++ p.extractLsb' 0 24) = blueOf p := extractLsb'_withAlpha alpha p (by decide)
  rw [lumaOf, cbOf, crOf, hr, hg, hb]
  exact ⟨rfl, rfl, rfl⟩

end Sys2Proof.Machine
end

section
/-! PROOFS. The transform of a constant block: every sum of two equal values is exact, and every difference and product
of the butterfly is a zero (41_color_fdct.md R166, R167; 95_test_vectors.md V-D1). -/

namespace Sys2Proof.Machine

/-! ## Zeros and exact values -/

/-- One of the two zeros. -/
def IsZero (x : F64) : Prop := f64Finite x = true ∧ f64Units x = 0

theorem Between.isZero {e : Nat} {x : F64} (h : Between e 0 0 x) : IsZero x := by
  obtain ⟨hfin, hlo, hhi⟩ := h
  rw [zero_mul] at hlo hhi
  exact ⟨hfin, hhi.antisymm hlo⟩

theorem IsZero.between {x : F64} (h : IsZero x) : Between 0 0 0 x := by
  obtain ⟨hfin, hunits⟩ := h
  rw [Between, hunits]
  exact ⟨hfin, le_refl _, le_refl _⟩

theorem IsZero.fadd {x y : F64} (hx : IsZero x) (hy : IsZero y) : IsZero (fadd x y) :=
  (fadd_between hx.between hy.between (by decide) (by decide) (by decide)).isZero

theorem IsZero.fsub {x y : F64} (hx : IsZero x) (hy : IsZero y) : IsZero (fsub x y) :=
  (fsub_between hx.between hy.between (by decide) (by decide) (by decide)).isZero

/-- A finite product with a factor of zero units. -/
theorem fmul_isZero {x y : F64} (hx : f64Finite x = true) (hy : f64Finite y = true) (h : f64Units x * f64Units y = 0) :
    IsZero (fmul x y) :=
  (fmul_between_of_le (e := 0) hx hy (by decide) (by decide) (by decide) (by rw [h, zero_mul, zero_mul])
    (by rw [h, zero_mul, zero_mul])).isZero

theorem IsZero.fmul_right {x c : F64} (hx : IsZero x) (hc : f64Finite c = true) : IsZero (fmul x c) :=
  fmul_isZero hx.1 hc (by rw [hx.2, zero_mul])

theorem IsZero.fmul_left {x c : F64} (hx : IsZero x) (hc : f64Finite c = true) : IsZero (fmul c x) :=
  fmul_isZero hc hx.1 (by rw [hx.2, mul_zero])

/-- A difference of equal values. -/
theorem fsub_self_isZero {e : Nat} {n : Int} {x y : F64} (hx : Between e n n x) (hy : Between e n n y) (he : e ≤ 2044) :
    IsZero (fsub x y) := by
  have h := fsub_between hx hy he (by simp) (by simp)
  rw [Int.sub_self] at h
  exact h.isZero

/-- A value of fewer than 2^53 of a place is kept exactly, the place of the greatest binade included. -/
theorem f64Round_exact (neg : Bool) {a e : Nat} (ha : a < 2 ^ 53) (he : e ≤ 2045) :
    f64Finite (f64Round neg (a * 2 ^ e) 1) = true ∧ f64Mag (f64Round neg (a * 2 ^ e) 1) = a * 2 ^ e := by
  have hplace : roundPlace (a * 2 ^ e) 1 ≤ e := by
    simpa only [mul_one] using roundPlace_mul_pow_le ha Nat.one_pos e
  have hpow : a * 2 ^ e = a * 2 ^ (e - roundPlace (a * 2 ^ e) 1) * 2 ^ roundPlace (a * 2 ^ e) 1 := by
    rw [mul_assoc, ← pow_add, Nat.sub_add_cancel hplace]
  have hsig : roundSig (a * 2 ^ e) 1 = a * 2 ^ (e - roundPlace (a * 2 ^ e) 1) := by
    rw [roundSig, one_mul]
    generalize roundPlace (a * 2 ^ e) 1 = k at hpow
    rw [hpow, nearestEven_exact (by positivity)]
  have hfin : f64Finite (f64Round neg (a * 2 ^ e) 1) = true := by
    rcases Nat.lt_or_ge (roundPlace (a * 2 ^ e) 1) 2045 with hlt | hge
    · exact f64Finite_round neg (by omega)
    · have htop : roundPlace (a * 2 ^ e) 1 = e := by omega
      rw [htop, Nat.sub_self, pow_zero, mul_one] at hsig
      rw [f64Finite_round_iff, hsig, f64InfBits]
      omega
  exact ⟨hfin, by rw [f64Mag_round_of_finite hfin, roundMag, hsig, ← hpow]⟩

/-- A sum of equal values doubles them: the same significand, one place up. -/
theorem fadd_self_between {e : Nat} {n : Int} {x y : F64} (hx : Between e n n x) (hy : Between e n n y)
    (hn : n.natAbs < 2 ^ 53) (he : e ≤ 2044) : Between (e + 1) n n (fadd x y) := by
  obtain ⟨hxf, hxl, hxh⟩ := hx
  obtain ⟨hyf, hyl, hyh⟩ := hy
  have hsum : f64Units x + f64Units y = n * 2 ^ (e + 1) := by
    rw [hxh.antisymm hxl, hyh.antisymm hyl, pow_succ]
    ring
  have habs : (n * 2 ^ (e + 1)).natAbs = n.natAbs * 2 ^ (e + 1) := by
    rw [Int.natAbs_mul, Int.natAbs_pow]
    rfl
  obtain ⟨hfin, hmag⟩ := f64Round_exact (decide (n * 2 ^ (e + 1) < 0)) hn (e := e + 1) (by omega)
  rw [fadd, f64IsNan_of_finite hxf, f64IsNan_of_finite hyf, hxf, hyf]
  simp only [Bool.or_self, Bool.false_eq_true, if_false, faddFinite, hsum, habs]
  split
  case isTrue h0 =>
    rw [Between, f64Units_pack_zero, h0]
    exact ⟨f64Finite_pack _ (by decide), le_refl _, le_refl _⟩
  case isFalse =>
    have hunits : f64Units (f64Round (decide (n * 2 ^ (e + 1) < 0)) (n.natAbs * 2 ^ (e + 1)) 1) = n * 2 ^ (e + 1) := by
      rw [f64Units_eq, f64Neg_round, hmag, ← habs, withSign_natAbs]
    exact ⟨hfin, hunits.ge, hunits.le⟩

/-- A value whose exponent leaves room for a factor 64, as a significand and a place. -/
theorem exists_between_of_exp_le {x : F64} (h : f64Exp x ≤ 2040) :
    ∃ e n, Between e n n x ∧ n.natAbs < 2 ^ 53 ∧ e ≤ 2039 := by
  have hfin : f64Finite x = true := by
    rw [f64Finite, bne_iff_ne]
    omega
  have hfrac : f64Frac x < 2 ^ 52 := (x.extractLsb' 0 52).isLt
  have hmag : ∃ e a, f64Mag x = a * 2 ^ e ∧ a < 2 ^ 53 ∧ e ≤ 2039 := by
    unfold f64Mag
    split
    · exact ⟨0, f64Frac x, by simp, by omega, by decide⟩
    · exact ⟨f64Exp x - 1, 2 ^ 52 + f64Frac x, rfl, by omega, by omega⟩
  obtain ⟨e, a, hmag, ha, he⟩ := hmag
  have hunits : f64Units x = withSign (f64Neg x) a * 2 ^ e := by
    rw [f64Units_eq, hmag, ← withSign_mul_natCast, Nat.cast_pow, Nat.cast_ofNat]
  refine ⟨e, withSign (f64Neg x) a, ⟨hfin, hunits.ge, hunits.le⟩, ?_, he⟩
  cases f64Neg x <;> simpa [withSign] using ha

/-! ## One pass over equal inputs, and the transform -/

theorem nano_finite {num : Nat} (h : num ≤ 2000000000) : f64Finite (nano num) = true :=
  (f64Lit_between (p := 20) (lo := 0) (hi := num * 2 ^ 20 / 1000000000 + 1) (by decide) (by decide) (by decide)
    (by omega) (by omega) (by omega)).1

/-- The pass over eight equal inputs: entry 0 is eight times the input, exactly, and every other entry a zero. -/
theorem aanPass_constant {e : Nat} {n : Int} {y : F64} (hy : Between e n n y) (hn : n.natAbs < 2 ^ 53)
    (he : e ≤ 2042) :
    Between (e + 3) n n (pick (aanPass fun _ => y) 0 0#64) ∧
      ∀ k, 0 < k → k < 8 → IsZero (pick (aanPass fun _ => y) k 0#64) := by
  have twice := fadd_self_between hy hy hn (by omega)
  have four := fadd_self_between twice twice hn (by omega)
  refine ⟨fadd_self_between four four hn (by omega), fun k hpos hk => ?_⟩
  -- the odd half's inputs tmp4..tmp7, and the even half's differences even12 and even13
  have tmp := fsub_self_isZero hy hy (by omega)
  have even := fsub_self_isZero twice twice (by omega)
  have z1 := (even.fadd even).fmul_right (nano_finite (num := 707106781) (by decide))
  have odd := tmp.fadd tmp
  have z5 := (odd.fsub odd).fmul_right (nano_finite (num := 382683433) (by decide))
  have z2 := (odd.fmul_left (nano_finite (num := 541196100) (by decide))).fadd z5
  have z4 := (odd.fmul_left (nano_finite (num := 1306562965) (by decide))).fadd z5
  have z3 := odd.fmul_right (nano_finite (num := 707106781) (by decide))
  have z11 := tmp.fadd z3
  have z13 := tmp.fsub z3
  match k with
  | 1 => exact z11.fadd z4
  | 2 => exact even.fadd z1
  | 3 => exact z13.fsub z2
  | 4 => exact fsub_self_isZero four four (by omega)
  | 5 => exact z13.fadd z2
  | 6 => exact even.fsub z1
  | 7 => exact z11.fsub z4

/-- Settles O52: the row passes leave eight times the sample in column 0 and zeros elsewhere, and the column passes do
the same with each column. -/
theorem constantBlockHasOnlyDc : Obligations.ConstantBlockHasOnlyDc := by
  intro x hx
  dsimp only
  obtain ⟨e, n, hval, hn, he⟩ := exists_between_of_exp_le hx
  obtain ⟨hrow, hrowzero⟩ := aanPass_constant hval hn (by omega)
  obtain ⟨hcol, hcolzero⟩ := aanPass_constant hrow hn (by omega)
  rw [forwardDct_replicate]
  refine ⟨?_, ?_, fun i hpos hi => ?_⟩
  · rw [pick_tabulate (by decide)]
    exact hcol.1
  · obtain ⟨-, hxl, hxh⟩ := hval
    obtain ⟨-, hdl, hdh⟩ := hcol
    rw [pick_tabulate (by decide), hxh.antisymm hxl]
    refine (hdh.antisymm hdl).trans ?_
    rw [pow_add, pow_add]
    ring
  · rw [pick_tabulate hi]
    rcases Nat.eq_zero_or_pos (i % 8) with hc | hc
    · rw [hc]
      exact hcolzero (i / 8) (by omega) (by omega)
    · have hzero := hrowzero (i % 8) hc (by omega)
      obtain ⟨hdc, hac⟩ := aanPass_constant hzero.between (by decide) (by decide)
      rcases Nat.eq_zero_or_pos (i / 8) with hr | hr
      · rw [hr]
        exact hdc.isZero
      · exact hac (i / 8) hr (by omega)

end Sys2Proof.Machine
end

section
/-! PROOFS. The quantizer: the reorderer, the exact rounding, and the range of the scaling entries
(42_quant_zigzag.md R192 to R198). -/

namespace Sys2Proof.Machine

/-! ## The reorderer (42_quant_zigzag.md R193, R198) -/

/-- UNZZ is a permutation of the 64 positions, and ZZ its inverse (42_quant_zigzag.md R193). -/
theorem zz_unzz {k : Nat} (h : k < 64) : entry unzz k < 64 ∧ entry zz (entry unzz k) = k := by
  revert k
  decide

/-- Settles O53: position ZZ[i] takes the coefficient of index UNZZ[ZZ[i]], which is i. -/
theorem reorderIsTheZigzag : Obligations.ReorderIsTheZigzag := by
  refine ⟨fun coef i hi => ?_, fun k hk => ?_⟩
  · obtain ⟨hzz, hunzz⟩ := unzz_zz hi
    rw [reorder, pick_tabulate hzz, hunzz]
  · obtain ⟨hunzz, hk'⟩ := zz_unzz hk
    exact ⟨hunzz, hk', unzz_zz hk⟩

/-! ## Rounding half away from zero (42_quant_zigzag.md R197) -/

/-- A magnitude of `m` units, plus a half, rounded down: the quotient that the rounding computes. -/
theorem floor_units_add_half (m : Nat) :
    ⌊(m : ℚ) / (f64One : ℚ) + 1 / 2⌋ = ((2 * m + f64One) / (2 * f64One) : Nat) := by
  have hone : (f64One : ℚ) ≠ 0 := Nat.cast_ne_zero.mpr f64One_pos.ne'
  have hquot : (m : ℚ) / f64One + 1 / 2 = (2 * m + f64One : Nat) / (2 * f64One : Nat) := by
    push_cast
    field_simp
  rw [hquot, Rat.floor_natCast_div_natCast, Int.natCast_div]

/-- Settles O48: a value with its sign is its sign times its magnitude, and a zero rounds to 0. -/
theorem roundsHalfAwayFromZero : Obligations.RoundsHalfAwayFromZero := by
  intro p _
  refine ⟨?_, by rw [roundHalfAway_eq, roundHalfAway_eq, f64Neg_fneg, f64Mag_fneg, withSign_not]⟩
  have habs : |(f64Units p : ℚ)| = (f64Mag p : ℚ) := by
    rw [f64Units_eq, withSign]
    split <;> simp
  rw [habs, floor_units_add_half, roundHalfAway_eq, f64Units_eq]
  rcases Nat.eq_zero_or_pos (f64Mag p) with hzero | hpos
  · have hquot : (2 * 0 + f64One) / (2 * f64One) = 0 := Nat.div_eq_of_lt (by have := f64One_pos; omega)
    rw [hzero, hquot, Nat.cast_zero, mul_zero]
    cases f64Neg p <;> rfl
  · have hsign : (f64Mag p : Int).sign = 1 := Int.sign_eq_one_of_pos (Int.natCast_pos.mpr hpos)
    generalize (2 * f64Mag p + f64One) / (2 * f64One) = m
    cases f64Neg p
    · simp [withSign, hsign]
    · simp [withSign, hsign]

/-! ## The scaling entries (42_quant_zigzag.md R195, R196) -/

/-- A product of two factors between bounds that are not negative. -/
theorem fmul_between_pos {e f g : Nat} {a b c d : Int} {x y : F64} (hx : Between e a b x) (hy : Between f c d y)
    (hplace : e + f = g + 1074) (hg : g ≤ 2044) (ha : 0 ≤ a) (hc : 0 ≤ c) (hlo : (a * c).natAbs < 2 ^ 53)
    (hhi : (b * d).natAbs < 2 ^ 53) : Between g (a * c) (b * d) (fmul x y) := by
  obtain ⟨hxf, hxl, hxh⟩ := hx
  obtain ⟨hyf, hyl, hyh⟩ := hy
  have hbound (m n : Int) : m * n * 2 ^ g * (f64One : Nat) = m * 2 ^ e * (n * 2 ^ f) := by
    have hpow : (2 : Int) ^ e * 2 ^ f = 2 ^ g * (f64One : Nat) := by rw [f64One_cast, ← pow_add, ← pow_add, hplace]
    linear_combination (-m * n) * hpow
  have hxpos : 0 ≤ a * 2 ^ e := by positivity
  have hypos : 0 ≤ c * 2 ^ f := by positivity
  refine fmul_between_of_le hxf hyf hg hlo hhi ?_ ?_ <;> rw [hbound]
  · exact mul_le_mul hxl hyl hypos (hxpos.trans hxl)
  · exact mul_le_mul hxh hyh (hypos.trans hyl) ((hxpos.trans hxl).trans hxh)

/-- The reciprocal of a divisor between positive bounds. -/
theorem fdiv_one_between {e g k : Nat} {lo hi lo' hi' : Int} {y : F64} (hy : Between e lo hi y)
    (hplace : e + g + k = 1074 + 1074) (hg : g ≤ 2044) (hpos : 0 < lo) (hlo0 : 0 ≤ lo') (hhi0 : 0 ≤ hi')
    (hlo : lo'.natAbs < 2 ^ 53) (hhi : hi'.natAbs < 2 ^ 53) (hl : lo' * hi ≤ 2 ^ k) (hh : 2 ^ k ≤ hi' * lo) :
    Between g lo' hi' (fdiv (f64OfNat 1) y) := by
  obtain ⟨hyf, hyl, hyh⟩ := hy
  have hg0 : (0 : Int) ≤ 2 ^ g := by positivity
  have hunit0 : (0 : Int) ≤ 2 ^ e * 2 ^ g := by positivity
  have hy0 : 0 < f64Units y := lt_of_lt_of_le (by positivity) hyl
  have hunit : f64Units (f64OfNat 1) * (f64One : Nat) = 2 ^ k * (2 ^ e * 2 ^ g) := by
    have hexp : 1074 + 1074 = k + (e + g) := by omega
    rw [(f64OfNat_exact (n := 1) (by decide)).2, f64One_cast, Nat.cast_one, one_mul, ← pow_add, ← pow_add, ← pow_add,
      hexp]
  refine fdiv_between_of_le (f64OfNat_exact (by decide)).1 hyf hy0 hg hlo hhi ?_ ?_ <;> rw [hunit]
  · calc lo' * 2 ^ g * f64Units y ≤ lo' * 2 ^ g * (hi * 2 ^ e) := mul_le_mul_of_nonneg_left hyh (mul_nonneg hlo0 hg0)
      _ = lo' * hi * (2 ^ e * 2 ^ g) := by ring
      _ ≤ 2 ^ k * (2 ^ e * 2 ^ g) := mul_le_mul_of_nonneg_right hl hunit0
  · calc 2 ^ k * (2 ^ e * 2 ^ g) ≤ hi' * lo * (2 ^ e * 2 ^ g) := mul_le_mul_of_nonneg_right hh hunit0
      _ = hi' * 2 ^ g * (lo * 2 ^ e) := by ring
      _ ≤ hi' * 2 ^ g * f64Units y := mul_le_mul_of_nonneg_left hyl (mul_nonneg hhi0 hg0)

/-- The AASF factors are decimal literals between 0.275899379 and 1.387039845 (42_quant_zigzag.md R195). -/
theorem aasf_eq_nano {i : Nat} (h : i < 8) : ∃ num, (275899379 ≤ num ∧ num ≤ 1387039845) ∧ aasf i = nano num := by
  refine ⟨_, ?_, rfl⟩
  revert i
  decide

/-- A factor in units of 2^-10. -/
theorem aasf_between {i : Nat} (h : i < 8) : Between 1064 282 1421 (aasf i) := by
  obtain ⟨num, hnum, e⟩ := aasf_eq_nano h
  rw [e]
  exact f64Lit_between (p := 10) (by decide) (by decide) (by decide) (by decide) (by omega) (by omega)

theorem pick_scaleTable (qt : Vector Byte 64) {i : Nat} (hi : i < 64) : pick (scaleTable qt) i 0#64 =
    fdiv (f64OfNat 1) (fmul (fmul (fmul (f64OfNat (qt.toList.getD (entry zz i) 0#8).toNat) (aasf (i / 8)))
      (aasf (i % 8))) (f64OfNat 8)) :=
  pick_tabulate hi _ _

/-- With a quantizer entry from 1 on, the scaling entry lies between 2^-20 and 2 - 2^-20. -/
theorem scaleTable_between {qt : Vector Byte 64} {i : Nat} (hi : i < 64)
    (hq : 1 ≤ (qt.toList.getD (entry zz i) 0#8).toNat) :
    Between 1054 1 (2 ^ 21 - 1) (pick (scaleTable qt) i 0#64) := by
  have hentry : Between 1074 1 255 (f64OfNat (qt.toList.getD (entry zz i) 0#8).toNat) :=
    (f64OfNat_between (by omega)).mono (by omega) (by omega)
  have hrow := fmul_between_pos (g := 1064) hentry (aasf_between (i := i / 8) (by omega)) rfl (by decide) (by decide)
    (by decide) (by decide) (by decide)
  have hcol := fmul_between_pos (g := 1054) hrow (aasf_between (i := i % 8) (by omega)) rfl (by decide) (by decide)
    (by decide) (by decide) (by decide)
  have hden := fmul_between_pos (g := 1054) hcol (f64OfNat_between (n := 8) (by decide)) rfl (by decide) (by decide)
    (by decide) (by decide) (by decide)
  rw [pick_scaleTable qt hi]
  exact fdiv_one_between (k := 40) hden rfl (by decide) (by decide) (by decide) (by decide) (by decide) (by decide)
    (by decide) (by decide)

/-- Settles O49: every quantizer entry is at least 1, whatever the base table and the quality. -/
theorem scalingEntriesLieBetween0And2 : Obligations.ScalingEntriesLieBetween0And2 := by
  intro base q i _ _ _ hi
  dsimp only
  obtain ⟨hfin, hlo, hhi⟩ := scaleTable_between hi (quantTable_entry_pos base q (unzz_zz hi).1)
  have hone : (f64One : Int) = 2 ^ 20 * 2 ^ 1054 := by rw [f64One_cast, ← pow_add]
  have hunit : (0 : Int) < 2 ^ 1054 := by positivity
  generalize (2 : Int) ^ 1054 = unit at hlo hhi hone hunit
  exact ⟨hfin, by omega, by omega⟩

end Sys2Proof.Machine
end

section
/-! PROOFS. Which instructions write the configuration (42_quant_zigzag.md R199; 10_state.md R33 to R35, R39, R42;
60_exceptions.md R318), and that a session freezes the tables and the image (42_quant_zigzag.md R200). -/

namespace Sys2Proof.Machine

/-! ## What most instructions leave of the configuration -/

/-- `t` has the tables of `s`, and Q_ACT. -/
def SameTables (s t : State) : Prop :=
  t.qtY = s.qtY ∧ t.qtC = s.qtC ∧ t.fdY = s.fdY ∧ t.fdC = s.fdC ∧ t.qAct = s.qAct

/-- `t` has the configuration of `s`: tables, image, addresses and interrupt bits. -/
structure SameConfiguration (s t : State) : Prop where
  tables : SameTables s t
  pix : t.pix = s.pix
  pixAddr : t.pixAddr = s.pixAddr
  width : t.width = s.width
  height : t.height = s.height
  doneIp : t.doneIp = s.doneIp
  irqEn : t.irqEn = s.irqEn
  outAddr : t.outAddr = s.outAddr

/-- Each part of the configuration is as before but for the instructions that write it. -/
def ConfigurationByItsWriters (i : Instr) (s t : State) : Prop :=
  ((i ∈ [Instr.tail, .stop] → s.qPending = false) → ((∃ imm, i = .setQuality imm) → s.running = true) →
    SameTables s t) ∧
  ((∀ v, i ≠ .wrPixData v) ∨ s.running = true → t.pix = s.pix) ∧
  ((∀ v, i ≠ .wrPixData v ∧ i ≠ .wrPixAddr v) ∨ s.running = true → t.pixAddr = s.pixAddr) ∧
  ((∀ v, i ≠ .wrWidth v) ∨ s.running = true → t.width = s.width) ∧
  ((∀ v, i ≠ .wrHeight v) ∨ s.running = true → t.height = s.height) ∧
  (t.doneIp = true → s.doneIp = true ∨ (i = .tail ∧ s.running = true ∧ s.consumed = true)) ∧
  (s.doneIp = true → t.doneIp = true ∨ ∃ v : Word, i = .wrStatus v ∧ v.getLsbD 16 = true) ∧
  ((∀ v, i ≠ .wrIrqEn v) → t.irqEn = s.irqEn) ∧
  (i ∉ [Instr.start, .dispose, .rdOutData] → (∀ v, i ≠ .wrOutAddr v) → t.outAddr = s.outAddr)

theorem SameTables.refl (s : State) : SameTables s s := ⟨rfl, rfl, rfl, rfl, rfl⟩

theorem applyPending_sameTables {s : State} (h : s.qPending = false) : SameTables s (applyPending s) := by
  rw [applyPending_none h]
  exact .refl s

theorem SameConfiguration.refl (s : State) : SameConfiguration s s := ⟨.refl s, rfl, rfl, rfl, rfl, rfl, rfl, rfl⟩

theorem refuseWith_sameConfiguration (c : ErrCode) (s : State) : SameConfiguration s (refuseWith c s) :=
  { SameConfiguration.refl s with }

section
variable {s t : State}

theorem SameConfiguration.byItsWriters (h : SameConfiguration s t) (i : Instr) : ConfigurationByItsWriters i s t :=
  ⟨fun _ _ => h.tables, fun _ => h.pix, fun _ => h.pixAddr, fun _ => h.width, fun _ => h.height,
    fun hd => .inl (h.doneIp ▸ hd), fun hd => .inl (h.doneIp.trans hd), fun _ => h.irqEn, fun _ _ => h.outAddr⟩

/-! ## The instructions that write it -/

theorem execSetQuality_configuration {imm : BitVec 16} (h : execSetQuality imm s = .next t) :
    ConfigurationByItsWriters (.setQuality imm) s t := by
  obtain ⟨-, rfl⟩ | ⟨hr, rfl⟩ := execSetQuality_next h
  · exact SameConfiguration.byItsWriters { SameConfiguration.refl s with } _
  · simp [ConfigurationByItsWriters, hr]

theorem execStart_configuration (h : execStart s = .next t) : ConfigurationByItsWriters .start s t := by
  obtain ⟨-, rfl⟩ | ⟨-, -, rfl⟩ | ⟨-, -, rfl⟩ | ⟨-, -, -, -, rfl⟩ := execStart_next h
  · exact (refuseWith_sameConfiguration _ s).byItsWriters _
  · exact (refuseWith_sameConfiguration _ s).byItsWriters _
  · exact (refuseWith_sameConfiguration _ s).byItsWriters _
  · simp [ConfigurationByItsWriters, SameTables]

theorem execBlock_configuration (h : execBlock s = .next t) : ConfigurationByItsWriters .block s t := by
  obtain ⟨-, rfl⟩ | ⟨-, -, rfl⟩ | ⟨-, -, -, y, cb, cr, w, -, -, rfl⟩ := execBlock_next h
  · exact (refuseWith_sameConfiguration _ s).byItsWriters _
  · exact (refuseWith_sameConfiguration _ s).byItsWriters _
  · exact SameConfiguration.byItsWriters { SameConfiguration.refl s with } _

theorem execTail_configuration (h : execTail s = .next t) : ConfigurationByItsWriters .tail s t := by
  obtain ⟨-, rfl⟩ | ⟨-, -, rfl⟩ | ⟨hr, hc, w, -, rfl⟩ := execTail_next h
  · exact (refuseWith_sameConfiguration _ s).byItsWriters _
  · exact (refuseWith_sameConfiguration _ s).byItsWriters _
  · simpa [ConfigurationByItsWriters, hr, hc, SameTables] using applyPending_sameTables (s := s)

theorem execStop_configuration (h : execStop s = .next t) : ConfigurationByItsWriters .stop s t := by
  obtain ⟨-, rfl⟩ | ⟨hr, rfl⟩ := execStop_next h
  · exact (SameConfiguration.refl t).byItsWriters _
  · rw [applyPending_stop]
    simpa [ConfigurationByItsWriters, SameTables] using applyPending_sameTables (s := s)

theorem execDispose_configuration (h : execDispose s = .next t) : ConfigurationByItsWriters .dispose s t := by
  obtain ⟨-, rfl⟩ | ⟨-, rfl⟩ := execDispose_next h
  · exact (SameConfiguration.refl t).byItsWriters _
  · simp [ConfigurationByItsWriters, SameTables]

theorem execWrPixData_configuration {v : Word} (h : execWrPixData v s = .next t) :
    ConfigurationByItsWriters (.wrPixData v) s t := by
  obtain ⟨-, rfl⟩ | ⟨-, -, rfl⟩ | ⟨hr, -, rfl⟩ := execWrPixData_next h
  · exact (refuseWith_sameConfiguration _ s).byItsWriters _
  · exact (refuseWith_sameConfiguration _ s).byItsWriters _
  · simp [ConfigurationByItsWriters, SameTables, hr]

theorem execRdOutData_configuration (h : execRdOutData s = .next t) : ConfigurationByItsWriters .rdOutData s t := by
  obtain ⟨-, rfl⟩ | ⟨-, -, rfl⟩ := execRdOutData_next h
  · exact SameConfiguration.byItsWriters { SameConfiguration.refl s with } _
  · simp [ConfigurationByItsWriters, SameTables]

/-- A write that a session refuses: its effect on an idle unit is what is left to say. -/
theorem writeWhileIdle_configuration {i : Instr} {u : State} (h : writeWhileIdle s u = .next t)
    (hu : s.running = false → ConfigurationByItsWriters i s u) : ConfigurationByItsWriters i s t := by
  obtain ⟨-, rfl⟩ | ⟨hr, rfl⟩ := writeWhileIdle_next h
  · exact (refuseWith_sameConfiguration _ s).byItsWriters _
  · exact hu hr

theorem readValue_sameConfiguration {v : Word} (h : readValue v s = .next t) : SameConfiguration s t :=
  next_inj.mp h ▸ { SameConfiguration.refl s with }

/-- A CMD write that is no command changes the error record alone. -/
theorem execWrCmd_sameConfiguration {w : Word} (hw : WellFormed (.wrCmd w) = true) (h : execWrCmd w s = .next t) :
    SameConfiguration s t := by
  rw [execWrCmd, (decodeCmd_eq_none_iff w).mpr (by simpa [WellFormed] using hw)] at h
  exact next_inj.mp h ▸ refuseWith_sameConfiguration _ s

theorem clearStatus_doneIp (v : Word) (s : State) : (clearStatus v s).doneIp = (s.doneIp && !v.getLsbD 16) := by
  unfold clearStatus
  dsimp only
  cases v.getLsbD 8 <;> cases v.getLsbD 16 <;> simp

theorem execWrStatus_configuration {v : Word} (h : execWrStatus v s = .next t) :
    ConfigurationByItsWriters (.wrStatus v) s t := by
  obtain rfl := next_inj.mp h
  cases hv : v.getLsbD 16
  all_goals simp [ConfigurationByItsWriters, SameTables, clearStatus_doneIp, hv, -BitVec.getLsbD_eq_getElem]

theorem exec_configuration {i : Instr} (hi : WellFormed i = true) (h : exec i s = .next t) :
    ConfigurationByItsWriters i s t := by
  cases i
  case nop => exact next_inj.mp h ▸ (SameConfiguration.refl s).byItsWriters _
  case setQuality => exact execSetQuality_configuration h
  case start => exact execStart_configuration h
  case block => exact execBlock_configuration h
  case tail => exact execTail_configuration h
  case stop => exact execStop_configuration h
  case dispose => exact execDispose_configuration h
  case wrCmd => exact (execWrCmd_sameConfiguration hi h).byItsWriters _
  case wrStatus => exact execWrStatus_configuration h
  case wrIrqEn => exact next_inj.mp h ▸ by simp [ConfigurationByItsWriters, SameTables]
  case wrOutAddr => exact next_inj.mp h ▸ by simp [ConfigurationByItsWriters, SameTables]
  case wrWidth => exact writeWhileIdle_configuration h fun hr => by simp [ConfigurationByItsWriters, SameTables, hr]
  case wrHeight => exact writeWhileIdle_configuration h fun hr => by simp [ConfigurationByItsWriters, SameTables, hr]
  case wrPixAddr => exact writeWhileIdle_configuration h fun hr => by simp [ConfigurationByItsWriters, SameTables, hr]
  case wrPixData => exact execWrPixData_configuration h
  case rdOutData => exact execRdOutData_configuration h
  all_goals exact (readValue_sameConfiguration h).byItsWriters _

end

/-- Settles O20, instruction by instruction. -/
theorem configurationHasItsWriters : Obligations.ConfigurationHasItsWriters :=
  fun _ _ _ hi h => exec_configuration hi h

/-! ## A session freezes the tables and the image (42_quant_zigzag.md R200) -/

/-- `t` has the tables and the image of `s`, unwritten pixels included: the parts that a session freezes. -/
def SameFrozen (s t : State) : Prop :=
  (t.qtY = s.qtY ∧ t.qtC = s.qtC ∧ t.fdY = s.fdY ∧ t.fdC = s.fdC) ∧
  (t.pix = s.pix ∧ t.epoch = s.epoch ∧ t.width = s.width ∧ t.height = s.height)

theorem SameFrozen.refl (s : State) : SameFrozen s s := ⟨⟨rfl, rfl, rfl, rfl⟩, rfl, rfl, rfl, rfl⟩

theorem SameFrozen.trans {s t u : State} (hst : SameFrozen s t) (htu : SameFrozen t u) : SameFrozen s u := by
  unfold SameFrozen at *
  simp_all

section
variable {s t : State}

/-- During a session, an instruction that ends none leaves the frozen parts to no writer. -/
theorem exec_sameFrozen_of_running {i : Instr} (hi : WellFormed i = true) (h : exec i s = .next t)
    (hr : s.running = true) (hend : i ∉ [Instr.tail, .stop]) : SameFrozen s t := by
  obtain ⟨htables, hpix, -, hwidth, hheight, -⟩ := configurationHasItsWriters i s t hi h
  obtain ⟨hqtY, hqtC, hfdY, hfdC, -⟩ := htables (fun hc => absurd hc hend) fun _ => hr
  obtain ⟨-, -, hepoch⟩ := exec_sameHostSide h
  exact ⟨⟨hqtY, hqtC, hfdY, hfdC⟩, hpix (.inr hr), hepoch, hwidth (.inr hr), hheight (.inr hr)⟩

/-- START opens a session without touching what it freezes, TAIL leaves one running only by an error and STOP never, and
every other instruction found the session running. -/
theorem exec_sameFrozen {i : Instr} (hi : WellFormed i = true) (h : exec i s = .next t) (hr : t.running = true) :
    SameFrozen s t := by
  by_cases hc : i ∈ [Instr.start, .tail, .stop]
  · simp only [List.mem_cons, List.not_mem_nil, or_false] at hc
    obtain rfl | rfl | rfl := hc
    · obtain ⟨-, rfl⟩ | ⟨-, -, rfl⟩ | ⟨-, -, rfl⟩ | ⟨-, -, -, -, rfl⟩ := execStart_next h <;> exact .refl s
    · obtain ⟨-, rfl⟩ | ⟨-, -, rfl⟩ | ⟨-, -, w, -, rfl⟩ := execTail_next h
      · exact .refl s
      · exact .refl s
      · cases hr
    · obtain ⟨-, rfl⟩ | ⟨-, rfl⟩ := execStop_next h
      · exact .refl t
      · rw [applyPending_running] at hr
        cases hr
  · obtain ⟨-, -, -, -, hrun, -⟩ := sessionStateHasItsWriters i s t hi h
    exact exec_sameFrozen_of_running hi h ((hrun hc).symm.trans hr) fun hend => hc (List.mem_cons_of_mem _ hend)

end

/-- A step after which a session runs: a reset ends every session, so it was an instruction or none. -/
theorem step_sameFrozen {s t : State} (h : step s = .next t) : t.running = true → SameFrozen s t :=
  step_leads_to (P := SameFrozen s) (Q := fun t => t.running = true → SameFrozen s t) (fun _ hs _ => hs)
    (fun _ _ hs => hs) (fun _ _ hr => by cases hr)
    (fun _ _ _ hi hs h hr => hs.trans (exec_sameFrozen hi h hr)) (.refl s) h

/-- A list that begins with three parts holds the second one behind the first. -/
theorem take_drop_of_take_eq {α : Type} {n : Nat} {out front part rest : List α}
    (h : out.take n = front ++ (part ++ rest)) : (out.drop front.length).take part.length = part := by
  rw [← List.take_append_drop n out, h, List.append_assoc, List.append_assoc, List.drop_left, List.take_left]

/-- The header up to the bytes of QT_Y: SOI, APP0 and the beginning of the DQT (45_framer.md R280 to R283). -/
def headerFront : List Byte :=
  soiBytes ++ app0Bytes ++ (wordBytes 0xFFDB#16 ++ wordBytes 132#16 ++ [0x00#8])

/-- The header around the two tables of its DQT (45_framer.md R283). -/
theorem headerBytes_eq (s : State) : headerBytes s = headerFront ++ (s.qtY.toList ++ ([0x01#8] ++ (s.qtC.toList ++
    (sof0Bytes s.width s.height ++ dhtBytes ++ sosBytes)))) := by
  simp only [headerBytes, dqtBytes, headerFront, List.append_assoc]

/-- The two tables stand at offsets 25 and 90 of an output that starts with the header (45_framer.md R287). -/
theorem tables_of_header {s : State} {out : List Byte} (h : out.take 607 = headerBytes s) :
    (out.drop 25).take 64 = s.qtY.toList ∧ (out.drop 90).take 64 = s.qtC.toList := by
  have hfront : headerFront.length = 25 := by decide
  rw [headerBytes_eq] at h
  have hY := take_drop_of_take_eq h
  rw [← List.append_assoc, ← List.append_assoc] at h
  have hC := take_drop_of_take_eq h
  simp only [List.length_append, List.length_singleton, hfront, Vector.length_toList] at hY hC
  exact ⟨hY, hC⟩

/-- Settles O18: the step keeps the frozen parts, and the header of the session shows its tables. -/
theorem sessionFreezesTablesAndImage : Obligations.SessionFreezesTablesAndImage := by
  refine ⟨fun s t h => step_sameFrozen h, fun s hs hr => ?_⟩
  obtain ⟨-, -, hheader, -, -⟩ := hs.session hr
  obtain ⟨-, -, hfdY, hfdC⟩ := hs.tables
  obtain ⟨hqtY, hqtC⟩ := tables_of_header hheader
  exact ⟨hqtY, hqtC, hfdY, hfdC⟩

end Sys2Proof.Machine
end

section
/-! PROOFS. The magnitude bits and the Huffman codes (43_entropy.md R220 to R227). -/

namespace Sys2Proof.Machine

/-! ## Categories and magnitude bits (43_entropy.md R220, R221) -/

theorem category_pos {v : Int} (hv : v ≠ 0) : 1 ≤ category v :=
  Nat.pos_of_ne_zero (mt category_eq_zero_iff.mp hv)

theorem two_pow_category_le_natAbs {v : Int} (hv : v ≠ 0) : 2 ^ (category v - 1) ≤ v.natAbs := by
  have hpos := category_pos hv
  by_contra hlt
  have hle := category_le_iff.mpr (Nat.lt_of_not_le hlt)
  omega

theorem magnitude_of_pos {v : Int} (hv : 0 < v) : (magnitude v : Int) = v := by
  rw [magnitude, if_pos hv]
  omega

theorem magnitude_of_neg {v : Int} (hv : v < 0) : (magnitude v : Int) = v + 2 ^ category v - 1 := by
  have habs : ((v.natAbs : Nat) : Int) < 2 ^ category v := by exact_mod_cast natAbs_lt_two_pow_category v
  rw [magnitude, if_neg (by omega)]
  omega

/-- The highest of n + 1 bits is set exactly in the upper half of the numbers that have them. -/
theorem testBit_eq_decide_two_pow_le {x n : Nat} (h : x < 2 ^ (n + 1)) : x.testBit n = decide (2 ^ n ≤ x) := by
  by_cases hx : 2 ^ n ≤ x
  · rw [decide_eq_true hx]
    exact Nat.testBit_of_two_pow_le_and_two_pow_add_one_gt hx h
  · rw [decide_eq_false hx]
    exact Nat.testBit_lt_two_pow (by omega)

/-- The leading magnitude bit is the sign (43_entropy.md R221). -/
theorem magnitude_testBit {v : Int} (hv : v ≠ 0) : (magnitude v).testBit (category v - 1) = decide (0 < v) := by
  have hpos := category_pos hv
  have hlow := two_pow_category_le_natAbs hv
  have hpow : (2 : Nat) ^ category v = 2 * 2 ^ (category v - 1) := by
    rw [← pow_succ', Nat.sub_add_cancel hpos]
  have hpowInt : (2 : Int) ^ category v = 2 * (2 ^ (category v - 1) : Nat) := by exact_mod_cast hpow
  rw [testBit_eq_decide_two_pow_le (by rw [Nat.sub_add_cancel hpos]; exact magnitude_lt v)]
  rw [decide_eq_decide]
  rcases lt_or_gt_of_ne hv with hneg | hpos
  · have hmag := magnitude_of_neg hneg
    rw [hpowInt] at hmag
    omega
  · have hmag := magnitude_of_pos hpos
    omega

/-- With the category, the magnitude determines a value that is not zero. -/
theorem eq_of_category_of_magnitude {u v : Int} (hu : u ≠ 0) (hv : v ≠ 0) (hcat : category u = category v)
    (hmag : magnitude u = magnitude v) : u = v := by
  have hsign : 0 < u ↔ 0 < v := by
    rw [← decide_eq_decide, ← magnitude_testBit hu, ← magnitude_testBit hv, hcat, hmag]
  rcases lt_or_gt_of_ne hu with hneg | hpos
  · have humag := magnitude_of_neg hneg
    have hvmag := magnitude_of_neg (v := v) (by omega)
    rw [hcat, hmag] at humag
    omega
  · rw [← magnitude_of_pos hpos, ← magnitude_of_pos (hsign.mp hpos), hmag]

/-- Settles O55: each bound by its lemma, and the leading bit tells the two signs apart. -/
theorem magnitudeBitsDetermineTheValue : Obligations.MagnitudeBitsDetermineTheValue :=
  ⟨category_eq_zero_iff.mpr rfl,
    fun v hv => ⟨category_pos hv, two_pow_category_le_natAbs hv, natAbs_lt_two_pow_category v, magnitude_lt v,
      magnitude_of_pos, magnitude_of_neg, magnitude_testBit hv⟩,
    fun _ _ => eq_of_category_of_magnitude⟩

/-! ## The canonical codes (43_entropy.md R224, R225) -/

theorem assignCodes_map_sym (len code : Nat) (vs : List Nat) : (assignCodes len code vs).map HuffCode.sym = vs := by
  induction vs generalizing code with
  | nil => rfl
  | cons v vs ih => rw [assignCodes, List.map_cons, ih]

theorem mem_assignCodes {len code : Nat} {vs : List Nat} {c : HuffCode} (h : c ∈ assignCodes len code vs) :
    c.len = len ∧ code ≤ c.code ∧ c.code < code + vs.length := by
  induction vs generalizing code with
  | nil => cases h
  | cons v vs ih =>
    rw [List.length_cons]
    rcases List.mem_cons.mp h with rfl | h
    · exact ⟨rfl, le_rfl, by simp⟩
    · obtain ⟨hlen, hlow, hhigh⟩ := ih h
      exact ⟨hlen, by omega, by omega⟩

theorem assignCodes_increasing (len code : Nat) (vs : List Nat) :
    (assignCodes len code vs).Pairwise fun c d => c.code < d.code := by
  induction vs generalizing code with
  | nil => exact .nil
  | cons v vs ih => exact .cons (fun d hd => (mem_assignCodes hd).2.1) (ih (code + 1))

/-- The codes go to the values in order, as far as the counts reach. -/
theorem buildFrom_map_sym (len code : Nat) (bits vals : List Nat) :
    (buildFrom len code bits vals).map HuffCode.sym = vals.take bits.sum := by
  induction bits generalizing len code vals with
  | nil => simp [buildFrom]
  | cons n bits ih => rw [buildFrom, List.map_append, assignCodes_map_sym, ih, List.sum_cons, List.take_add]

/-- The first 16-bit string that begins with the code. -/
def HuffCode.start (c : HuffCode) : Nat := c.code * 2 ^ (16 - c.len)

/-- Every 16-bit string that begins with the code of `c` comes before every one that begins with the code of `d`. -/
def HuffCode.Before (c d : HuffCode) : Prop := (c.code + 1) * 2 ^ (16 - c.len) ≤ d.start

theorem mem_buildFrom {len code : Nat} {bits vals : List Nat} (hlen : len + bits.length = 17) {c : HuffCode}
    (h : c ∈ buildFrom len code bits vals) : (len ≤ c.len ∧ c.len ≤ 16) ∧ code * 2 ^ (16 - len) ≤ c.start := by
  induction bits generalizing len code vals with
  | nil => cases h
  | cons n bits ih =>
    rw [List.length_cons] at hlen
    rcases List.mem_append.mp h with h | h
    · obtain ⟨hc, hlow, -⟩ := mem_assignCodes h
      exact ⟨by omega, by rw [HuffCode.start, hc]; exact Nat.mul_le_mul_right _ hlow⟩
    · obtain ⟨hrange, hstart⟩ := ih (by omega) h
      refine ⟨by omega, le_trans ?_ hstart⟩
      calc code * 2 ^ (16 - len) = code * 2 * 2 ^ (16 - (len + 1)) := by
            rw [mul_assoc, ← pow_succ', show 16 - (len + 1) + 1 = 16 - len by omega]
        _ ≤ (code + n) * 2 * 2 ^ (16 - (len + 1)) := by gcongr; omega

/-- The codes come in the order of the strings that begin with them, whatever the counts and the values. -/
theorem buildFrom_before {len code : Nat} {bits vals : List Nat} (hlen : len + bits.length = 17) :
    (buildFrom len code bits vals).Pairwise HuffCode.Before := by
  induction bits generalizing len code vals with
  | nil => exact .nil
  | cons n bits ih =>
    rw [List.length_cons] at hlen
    refine List.pairwise_append.mpr ⟨?_, ih (by omega), fun c hc d hd => ?_⟩
    · refine (assignCodes_increasing len code _).imp_of_mem fun {c d} hc hd hlt => ?_
      rw [HuffCode.Before, HuffCode.start, (mem_assignCodes hc).1, (mem_assignCodes hd).1]
      exact Nat.mul_le_mul_right _ hlt
    · obtain ⟨hc, -, hhigh⟩ := mem_assignCodes hc
      obtain ⟨hrange, hstart⟩ := mem_buildFrom (by omega) hd
      have hcount : c.code + 1 ≤ code + n := by
        rw [List.length_take] at hhigh
        omega
      calc (c.code + 1) * 2 ^ (16 - c.len) ≤ (code + n) * 2 ^ (16 - c.len) := Nat.mul_le_mul_right _ hcount
        _ = (code + n) * 2 * 2 ^ (16 - (len + 1)) := by
            rw [mul_assoc, ← pow_succ', hc, show 16 - (len + 1) + 1 = 16 - len by omega]
        _ ≤ d.start := hstart

/-! ## Codes as bit strings (43_entropy.md R227) -/

@[simp] theorem length_msbBits (n v : Nat) : (msbBits n v).length = n := by simp [msbBits]

/-- The first bits of a code are those of its quotient. -/
theorem take_msbBits {n m : Nat} (h : m ≤ n) (v : Nat) : (msbBits n v).take m = msbBits m (v / 2 ^ (n - m)) := by
  refine List.ext_getElem (by simp [h]) fun j hj _ => ?_
  rw [length_msbBits] at *
  simp only [msbBits, List.getElem_take, List.getElem_map, List.getElem_range, Nat.testBit_div_two_pow]
  congr 1
  omega

theorem eq_of_msbBits_eq {n u v : Nat} (hu : u < 2 ^ n) (hv : v < 2 ^ n) (h : msbBits n u = msbBits n v) : u = v := by
  refine Nat.eq_of_testBit_eq fun i => ?_
  by_cases hi : i < n
  · have hbits := List.getElem_of_eq h (i := n - 1 - i) (by simp; omega)
    simpa [msbBits, show n - 1 - (n - 1 - i) = i by omega] using hbits
  · have hpow : 2 ^ n ≤ 2 ^ i := Nat.pow_le_pow_right (by decide) (by omega)
    rw [Nat.testBit_lt_two_pow (by omega), Nat.testBit_lt_two_pow (by omega)]

/-- A code that begins another one is not before it, nor after it. -/
theorem not_before_of_msbBits_prefix {c d : HuffCode} (hc : c.code < 2 ^ c.len) (hd : d.code < 2 ^ d.len)
    (hlen : d.len ≤ 16) (h : msbBits c.len c.code <+: msbBits d.len d.code) : ¬c.Before d ∧ ¬d.Before c := by
  have hle : c.len ≤ d.len := by simpa using h.length_le
  have hcode : c.code = d.code / 2 ^ (d.len - c.len) := by
    have htake := List.prefix_iff_eq_take.mp h
    rw [length_msbBits, take_msbBits hle] at htake
    refine eq_of_msbBits_eq hc (Nat.div_lt_of_lt_mul ?_) htake
    rwa [← pow_add, Nat.sub_add_cancel hle]
  have hlow : c.code * 2 ^ (d.len - c.len) ≤ d.code := by rw [hcode]; exact Nat.div_mul_le_self _ _
  have hhigh : d.code < (c.code + 1) * 2 ^ (d.len - c.len) := by
    rw [hcode, mul_comm]
    exact Nat.lt_mul_div_succ _ (by positivity)
  have hpow : (2 : Nat) ^ (16 - c.len) = 2 ^ (d.len - c.len) * 2 ^ (16 - d.len) := by
    rw [← pow_add, show d.len - c.len + (16 - d.len) = 16 - c.len by omega]
  have hunit : 0 < 2 ^ (16 - d.len) := by positivity
  rw [HuffCode.Before, HuffCode.Before, HuffCode.start, HuffCode.start, hpow, ← mul_assoc, ← mul_assoc, not_le, not_le]
  exact ⟨Nat.mul_lt_mul_of_pos_right hhigh hunit, Nat.mul_lt_mul_of_pos_right (by omega) hunit⟩

/-- No code of a table of 16 lengths begins another one. -/
theorem buildTable_prefixFree {t : HuffSpec} (ht : t.bits.length = 16) {c d : HuffCode} (hc : c ∈ buildTable t)
    (hd : d ∈ buildTable t) (hcfit : c.code < 2 ^ c.len) (hdfit : d.code < 2 ^ d.len)
    (h : msbBits c.len c.code <+: msbBits d.len d.code) : c = d := by
  by_contra hne
  have hbits : 1 + t.bits.length = 17 := by omega
  have hdisj := not_before_of_msbBits_prefix hcfit hdfit (mem_buildFrom hbits hd).1.2 h
  have hsymm : Std.Symm fun c d : HuffCode => c.Before d ∨ d.Before c := ⟨fun _ _ => Or.symm⟩
  have hpair : (buildTable t).Pairwise fun c d => c.Before d ∨ d.Before c :=
    (buildFrom_before hbits).imp .inl
  exact (hpair.forall hc hd hne).elim hdisj.1 hdisj.2

/-! ## The four tables (43_entropy.md R222, R226, R227) -/

theorem isSome_lookupCode (ht : List HuffCode) (sym : Nat) :
    (lookupCode ht sym).isSome = true ↔ sym ∈ ht.map HuffCode.sym := by
  simp [lookupCode, List.find?_isSome]

/-- A table of R226: sixteen counts that reach all the values, and codes that fit their lengths. -/
theorem specTable_sound : ∀ t ∈ [dcLuma, dcChroma, acLuma, acChroma],
    t.bits.length = 16 ∧ t.vals.length ≤ t.bits.sum ∧ ∀ c ∈ buildTable t, c.code < 2 ^ c.len := by
  decide +kernel

theorem mem_dcVals {t : HuffSpec} (ht : t = dcLuma ∨ t = dcChroma) (sym : Nat) : sym ∈ t.vals ↔ sym ≤ 11 := by
  have hvals : t.vals = List.range 12 := by rcases ht with rfl | rfl <;> rfl
  rw [hvals, List.mem_range]
  omega

/-- What an AC table codes: EOB, ZRL, and a run with a category (43_entropy.md R222). -/
theorem mem_acVals {t : HuffSpec} (ht : t = acLuma ∨ t = acChroma) (sym : Nat) :
    sym ∈ t.vals ↔ sym = 0x00 ∨ sym = 0xF0 ∨ (sym / 16 ≤ 15 ∧ 1 ≤ sym % 16 ∧ sym % 16 ≤ 10) := by
  have hbytes : ∀ t ∈ [acLuma, acChroma], ∀ sym < 256,
      (sym ∈ t.vals ↔ sym = 0x00 ∨ sym = 0xF0 ∨ (sym / 16 ≤ 15 ∧ 1 ≤ sym % 16 ∧ sym % 16 ≤ 10)) := by decide +kernel
  have hlt : ∀ t ∈ [acLuma, acChroma], ∀ sym ∈ t.vals, sym < 256 := by decide +kernel
  have hmem : t ∈ [acLuma, acChroma] := by simpa using ht
  by_cases hsym : sym < 256
  · exact hbytes t hmem sym hsym
  · exact ⟨fun h => absurd (hlt t hmem sym h) hsym, by omega⟩

/-- Settles O54: canonical codes lie in order on the 16-bit strings, so none begins another. -/
theorem huffmanCodesArePrefixFree : Obligations.HuffmanCodesArePrefixFree := by
  intro t ht
  obtain ⟨hbits, hvals, hfit⟩ := specTable_sound t ht
  refine ⟨fun c hc => ?_, fun c hc d hd xs ys h => ?_, fun sym => ?_, fun sym h => mem_dcVals h sym,
    fun sym h => mem_acVals h sym⟩
  · obtain ⟨⟨hlow, hhigh⟩, -⟩ := mem_buildFrom (by omega : 1 + t.bits.length = 17) hc
    exact ⟨hlow, hhigh, hfit c hc⟩
  · have hxs : msbBits c.len c.code <+: msbBits d.len d.code ++ ys := h ▸ List.prefix_append _ _
    rcases List.prefix_or_prefix_of_prefix hxs (List.prefix_append _ ys) with hcd | hdc
    · exact buildTable_prefixFree hbits hc hd (hfit c hc) (hfit d hd) hcd
    · exact (buildTable_prefixFree hbits hd hc (hfit d hd) (hfit c hc) hdc).symm
  · rw [isSome_lookupCode, buildTable, buildFrom_map_sym, List.take_of_length_le hvals]

end Sys2Proof.Machine
end

section
/-! PROOFS. What the coding of a data unit sends (43_entropy.md R222, R229, R230; 90_conflicts.md C1). -/

namespace Sys2Proof.Machine

/-! ## The last nonzero AC value (43_entropy.md R230) -/

/-- The largest k in 1..n-1 with DU[k] nonzero, 0 if there is none. -/
def lastNonzeroBelow (du : Vector Int 64) (n : Nat) : Nat :=
  (List.range n).foldl (fun last k => if 0 < k ∧ pick du k 0 ≠ 0 then k else last) 0

theorem lastNonzero_eq (du : Vector Int 64) : lastNonzero du = lastNonzeroBelow du 64 := rfl

theorem lastNonzeroBelow_succ (du : Vector Int 64) (n : Nat) : lastNonzeroBelow du (n + 1) =
    if 0 < n ∧ pick du n 0 ≠ 0 then n else lastNonzeroBelow du n := by
  simp [lastNonzeroBelow, List.range_succ]

theorem lastNonzeroBelow_le (du : Vector Int 64) (n : Nat) : lastNonzeroBelow du (n + 1) ≤ n := by
  induction n with
  | zero => rfl
  | succ n ih => rw [lastNonzeroBelow_succ]; split <;> omega

theorem pick_eq_zero_of_lastNonzeroBelow_lt (du : Vector Int 64) {n k : Nat} (hk : lastNonzeroBelow du n < k)
    (hkn : k < n) : pick du k 0 = 0 := by
  induction n with
  | zero => omega
  | succ n ih =>
    rw [lastNonzeroBelow_succ] at hk
    split at hk
    case isTrue => omega
    case isFalse hne =>
      rcases Nat.lt_succ_iff_lt_or_eq.mp hkn with hlt | rfl
      · exact ih hk hlt
      · by_contra hz
        exact hne ⟨by omega, hz⟩

theorem lastNonzero_le (du : Vector Int 64) : lastNonzero du ≤ 63 := lastNonzeroBelow_le du 63

theorem lastNonzero_eq_63_iff (du : Vector Int 64) : lastNonzero du = 63 ↔ pick du 63 0 ≠ 0 := by
  have hle : lastNonzeroBelow du 63 ≤ 62 := lastNonzeroBelow_le du 62
  rw [lastNonzero_eq, lastNonzeroBelow_succ]
  split
  case isTrue h => simp [h.2]
  case isFalse h => exact ⟨by omega, fun hne => absurd ⟨by decide, hne⟩ h⟩

/-- The positions EncodeAC scans: 1 up to the last nonzero one. -/
def scannedAc (du : Vector Int 64) : List Int := (du.toList.take (lastNonzero du + 1)).drop 1

theorem encodeAc_eq (cap : Nat) (ht : List HuffCode) (du : Vector Int 64) (w : Writer) :
    encodeAc cap ht du w = andThen (scanAc cap ht (scannedAc du) 0 w) fun w =>
      if lastNonzero du = 63 then .ok w else putCode cap ht 0x00 w := rfl

theorem length_scannedAc (du : Vector Int 64) : (scannedAc du).length = lastNonzero du := by
  have hle := lastNonzero_le du
  rw [scannedAc, List.length_drop, List.length_take, Vector.length_toList]
  omega

theorem mem_drop_toList {du : Vector Int 64} {n : Nat} {v : Int} (h : v ∈ du.toList.drop n) :
    ∃ k, n ≤ k ∧ k < 64 ∧ pick du k 0 = v := by
  obtain ⟨j, hj, rfl⟩ := List.mem_iff_getElem.mp h
  rw [List.length_drop, Vector.length_toList] at hj
  exact ⟨n + j, by omega, by omega, by rw [pick_eq_getElem du (by omega)]; simp⟩

/-- Beyond the scanned positions there are zeros alone. -/
theorem scannedAc_append_zeros (du : Vector Int 64) :
    scannedAc du ++ List.replicate (63 - lastNonzero du) 0 = du.toList.drop 1 := by
  have hrest : du.toList.drop (lastNonzero du + 1) = List.replicate (63 - lastNonzero du) 0 := by
    refine List.eq_replicate_iff.mpr ⟨by simp, fun v hv => ?_⟩
    obtain ⟨k, hlast, hk, rfl⟩ := mem_drop_toList hv
    exact pick_eq_zero_of_lastNonzeroBelow_lt du hlast hk
  rw [scannedAc, ← hrest, List.drop_take]
  exact List.drop_take_append_drop' du.toList 1 (lastNonzero du)

/-- The scanned values are within the bound of a codable unit. -/
theorem scannedAc_small {du : Vector Int 64} (h : ∀ k, 1 ≤ k → k < 64 → (pick du k 0).natAbs ≤ 1023) :
    ∀ v ∈ scannedAc du, v.natAbs ≤ 1023 := by
  intro v hv
  rw [scannedAc, List.drop_take] at hv
  obtain ⟨k, hk1, hk, rfl⟩ := mem_drop_toList (List.mem_of_mem_take hv)
  exact h k hk1 hk

/-! ## Tokens of AC values (43_entropy.md R222, R230) -/

/-- The tokens of a scan: for each value, the ZRLs of the run before it and then the value with the rest of the run. -/
def acTokens : List Int → (run : Nat) → List Token
  | [], _ => []
  | v :: vs, run =>
    if v = 0 then acTokens vs (run + 1)
    else List.replicate (run / 16) (0xF0, 0) ++ (run % 16 * 16 + category v, v) :: acTokens vs 0

theorem sendTokens_cons (cap : Nat) (ht : List HuffCode) (k : Token) (ts : List Token) (w : Writer) :
    sendTokens cap ht (k :: ts) w = andThen (putValue cap ht k.1 k.2 w) fun w => sendTokens cap ht ts w := rfl

theorem sendTokens_append (cap : Nat) (ht : List HuffCode) (ks ts : List Token) (w : Writer) :
    sendTokens cap ht (ks ++ ts) w = andThen (sendTokens cap ht ks w) fun w => sendTokens cap ht ts w := by
  induction ks generalizing w with
  | nil => rfl
  | cons k ks ih =>
    rw [List.cons_append, sendTokens_cons, sendTokens_cons]
    cases putValue cap ht k.1 k.2 w with
    | error e => rfl
    | ok u => exact ih u

/-- A symbol with the value 0 is sent as its code alone. -/
theorem putValue_zero (cap : Nat) (ht : List HuffCode) (sym : Nat) (w : Writer) :
    putValue cap ht sym 0 w = putCode cap ht sym w := by
  rw [putValue]
  cases putCode cap ht sym w <;> rfl

theorem sendTokens_singleton (cap : Nat) (ht : List HuffCode) (k : Token) (w : Writer) :
    sendTokens cap ht [k] w = putValue cap ht k.1 k.2 w := by
  rw [sendTokens_cons]
  cases putValue cap ht k.1 k.2 w <;> rfl

theorem putZrls_eq_sendTokens (cap : Nat) (ht : List HuffCode) (n : Nat) (w : Writer) :
    putZrls cap ht n w = sendTokens cap ht (List.replicate n (0xF0, 0)) w := by
  induction n generalizing w with
  | zero => rfl
  | succ n ih =>
    rw [putZrls, List.replicate_succ, sendTokens_cons, putValue_zero]
    exact congrArg _ (funext ih)

/-- The scan sends its tokens. -/
theorem scanAc_eq_sendTokens (cap : Nat) (ht : List HuffCode) (vs : List Int) (run : Nat) (w : Writer) :
    scanAc cap ht vs run w = sendTokens cap ht (acTokens vs run) w := by
  induction vs generalizing run w with
  | nil => rfl
  | cons v vs ih =>
    rw [scanAc, acTokens]
    split
    case isTrue => exact ih (run + 1) w
    case isFalse =>
      rw [sendTokens_append, ← putZrls_eq_sendTokens]
      refine congrArg _ (funext fun u => ?_)
      rw [sendTokens_cons]
      exact congrArg _ (funext fun x => ih 0 x)

/-- EncodeAC sends the tokens of the scanned values, and EOB unless they reach position 63. -/
theorem encodeAc_eq_sendTokens (cap : Nat) (ht : List HuffCode) (du : Vector Int 64) (w : Writer) :
    encodeAc cap ht du w =
      sendTokens cap ht (acTokens (scannedAc du) 0 ++ if pick du 63 0 = 0 then [(0x00, 0)] else []) w := by
  rw [encodeAc_eq, sendTokens_append, scanAc_eq_sendTokens]
  refine congrArg _ (funext fun u => ?_)
  by_cases hlast : pick du 63 0 = 0
  · rw [if_neg (mt (lastNonzero_eq_63_iff du).mp (not_not.mpr hlast)), if_pos hlast, sendTokens_singleton, putValue_zero]
  · rw [if_pos ((lastNonzero_eq_63_iff du).mpr hlast), if_neg hlast, sendTokens]

/-! ## What the tokens stand for -/

/-- A ZRL, or a value with its category and a run of at most 15 (43_entropy.md R222). -/
def IsAcToken (k : Token) : Prop := k.1 = 0xF0 ∧ k.2 = 0 ∨ k.2 ≠ 0 ∧ k.1 / 16 ≤ 15 ∧ k.1 % 16 = category k.2

theorem category_le_ten {v : Int} (h : v.natAbs ≤ 1023) : category v ≤ 10 := category_le_iff.mpr (by omega)

theorem acTokens_wellFormed {vs : List Int} (hvs : ∀ v ∈ vs, v.natAbs ≤ 1023) (run : Nat) :
    ∀ k ∈ acTokens vs run, IsAcToken k := by
  induction vs generalizing run with
  | nil => exact fun k hk => by cases hk
  | cons v vs ih =>
    obtain ⟨hv, hvs⟩ := List.forall_mem_cons.mp hvs
    have hcat := category_le_ten hv
    intro k hk
    rw [acTokens] at hk
    split at hk
    case isTrue => exact ih hvs _ k hk
    case isFalse hne =>
      rcases List.mem_append.mp hk with hk | hk
      · rw [List.eq_of_mem_replicate hk]
        exact .inl ⟨rfl, rfl⟩
      · rcases List.mem_cons.mp hk with rfl | hk
        · exact .inr ⟨hne, by dsimp only; omega, by dsimp only; omega⟩
        · exact ih hvs 0 k hk

theorem expandTokens_zrls (n : Nat) (ts : List Token) :
    expandTokens (List.replicate n (0xF0, 0) ++ ts) = List.replicate (16 * n) 0 ++ expandTokens ts := by
  induction n with
  | zero => rfl
  | succ n ih =>
    rw [List.replicate_succ, List.cons_append, expandTokens, if_neg (by decide), if_pos rfl, ih, ← List.append_assoc,
      ← List.replicate_add, show 16 * (n + 1) = 16 + 16 * n by omega]

theorem expandTokens_value {run : Nat} {v : Int} (hne : v ≠ 0) (hv : v.natAbs ≤ 1023) (ts : List Token) :
    expandTokens ((run * 16 + category v, v) :: ts) = List.replicate run 0 ++ v :: expandTokens ts := by
  have hcat := category_le_ten hv
  have hpos : category v ≠ 0 := mt category_eq_zero_iff.mp hne
  rw [expandTokens, if_neg (by omega), if_neg (by omega), show (run * 16 + category v) / 16 = run by omega]

/-- The tokens of a scan stand for the run so far and the values, but for the zeros after the last of them. -/
theorem expandTokens_acTokens {vs : List Int} (hvs : ∀ v ∈ vs, v.natAbs ≤ 1023) (run : Nat) :
    ∃ n, expandTokens (acTokens vs run) ++ List.replicate n 0 = List.replicate run 0 ++ vs := by
  induction vs generalizing run with
  | nil => exact ⟨run, by rw [acTokens, expandTokens, List.nil_append, List.append_nil]⟩
  | cons v vs ih =>
    obtain ⟨hv, hvs⟩ := List.forall_mem_cons.mp hvs
    rw [acTokens]
    split
    case isTrue hzero =>
      obtain ⟨n, hn⟩ := ih hvs (run + 1)
      exact ⟨n, by rw [hn, hzero, List.replicate_succ', List.append_assoc]; rfl⟩
    case isFalse hne =>
      obtain ⟨n, hn⟩ := ih hvs 0
      refine ⟨n, ?_⟩
      rw [expandTokens_zrls, expandTokens_value hne hv, List.append_assoc, List.append_assoc,
        List.cons_append, hn, ← List.append_assoc, ← List.replicate_add, Nat.div_add_mod]
      rfl

/-- No ZRL stands at the end: the last token is that of a value. -/
theorem acTokens_end_in_value (vs : List Int) (run : Nat) :
    acTokens vs run = [] ∨ ∃ ts k, acTokens vs run = ts ++ [k] ∧ k.2 ≠ 0 := by
  induction vs generalizing run with
  | nil => exact .inl rfl
  | cons v vs ih =>
    rw [acTokens]
    split
    case isTrue => exact ih (run + 1)
    case isFalse hne =>
      right
      rcases ih 0 with hnil | ⟨ts, k, hts, hk⟩
      · exact ⟨_, _, by rw [hnil], hne⟩
      · exact ⟨_ ++ _ :: ts, k, by rw [hts, List.append_assoc]; rfl, hk⟩

/-- Settles O57: the coding of a codable unit answers, and it is the sending of the unit's tokens. -/
theorem dataUnitIsCodedLosslessly : Obligations.DataUnitIsCodedLosslessly := by
  intro cap dc ac pred du w ht hcod
  obtain ⟨hdc, hac⟩ := hcod
  have hsmall := scannedAc_small hac
  obtain ⟨w1, hw1⟩ := encodeDc_total cap ht hdc w
  obtain ⟨w2, hw2⟩ := encodeAc_total cap ht hac w1
  obtain ⟨n, hn⟩ := expandTokens_acTokens hsmall 0
  refine ⟨acTokens (scannedAc du) 0, w1, w2, n + (63 - lastNonzero du), ?_, ?_, ?_, acTokens_wellFormed hsmall 0, ?_,
    acTokens_end_in_value _ 0⟩
  · rw [sendTokens_singleton]
    exact hw1
  · rw [← encodeAc_eq_sendTokens, hw2]
  · rw [codeUnit, hw1, andThen_ok, hw2]
  · rw [List.replicate_add, ← List.append_assoc, hn]
    exact scannedAc_append_zeros du

end Sys2Proof.Machine
end

section
/-! PROOFS. How many bytes the coding of an MCU appends (43_entropy.md R233). -/

namespace Sys2Proof.Machine

/-! ## What so many bits can append -/

/-- The bits in the output and the accumulator, where a byte of the output counts four: a completed byte is at most two
bytes with its stuffing. -/
def Writer.load (w : Writer) : Nat := 4 * w.out.length + (7 - w.bytePos.toNat)

/-- `w'` comes from `w` by at most `n` bits: the output grows by what they fill, and where the output RAM has room for
that nothing overflows. A byte that a bit completes finds room for its stuffing too: with 7 bits pending and one more
bit, the load is at most 4 * cap + 3 exactly when two bytes are free. -/
structure SendsAtMost (cap n : Nat) (w w' : Writer) : Prop where
  grows : w.out <+: w'.out
  load_le : w'.load ≤ w.load + n
  noOverflow : w.load + n ≤ 4 * cap + 3 →
    w'.ovf = w.ovf ∧ w'.err = w.err ∧ w'.errCode = w.errCode ∧ w'.errMulti = w.errMulti

variable {cap : Nat}

theorem SendsAtMost.refl (w : Writer) : SendsAtMost cap 0 w w :=
  ⟨List.prefix_refl _, le_rfl, fun _ => ⟨rfl, rfl, rfl, rfl⟩⟩

theorem SendsAtMost.trans {n m : Nat} {w u x : Writer} (h : SendsAtMost cap n w u) (h' : SendsAtMost cap m u x) :
    SendsAtMost cap (n + m) w x := by
  have hload := h.load_le
  have hload' := h'.load_le
  refine ⟨h.grows.trans h'.grows, by omega, fun hroom => ?_⟩
  obtain ⟨ho, he, hc, hm⟩ := h.noOverflow (by omega)
  obtain ⟨ho', he', hc', hm'⟩ := h'.noOverflow (by omega)
  exact ⟨ho'.trans ho, he'.trans he, hc'.trans hc, hm'.trans hm⟩

theorem SendsAtMost.mono {n m : Nat} {w u : Writer} (h : SendsAtMost cap n w u) (hnm : n ≤ m) : SendsAtMost cap m w u :=
  ⟨h.grows, h.load_le.trans (by omega), fun hroom => h.noOverflow (by omega)⟩

theorem outAppend_grows (b : Byte) (w : Writer) :
    w.out <+: (outAppend cap b w).out ∧ (outAppend cap b w).out.length ≤ w.out.length + 1 := by
  rcases outAppend_cases cap b w with ⟨-, e⟩ | ⟨-, -, e⟩ | ⟨-, -, e⟩ <;> rw [e]
  · exact ⟨List.prefix_append _ _, by simp⟩
  · simp
  · simp

theorem emitStuffed_grows (b : Byte) (w : Writer) :
    w.out <+: (emitStuffed cap b w).out ∧ (emitStuffed cap b w).out.length ≤ w.out.length + 2 := by
  obtain ⟨hpre, hlen⟩ := outAppend_grows (cap := cap) b w
  unfold emitStuffed
  split
  · obtain ⟨hpre', hlen'⟩ := outAppend_grows (cap := cap) 0x00#8 (outAppend cap b w)
    exact ⟨hpre.trans hpre', by omega⟩
  · exact ⟨hpre, by omega⟩

/-- One bit adds one to the load, at most: eight of them are a byte, and that is two bytes of output. -/
theorem sendBit_sendsAtMost (b : Bool) (w : Writer) : SendsAtMost cap 1 w (sendBit cap b w) := by
  unfold sendBit
  split
  case isTrue hpos =>
    have hload : w.load = 4 * w.out.length + 7 := by rw [Writer.load, hpos]; rfl
    obtain ⟨hpre, hlen⟩ := emitStuffed_grows (cap := cap) (landBit b w) w
    refine ⟨hpre, ?_, fun hroom => ?_⟩
    · have hfull : Writer.load { emitStuffed cap (landBit b w) w with byteNew := 0#8, bytePos := 7#3 } =
          4 * (emitStuffed cap (landBit b w) w).out.length := rfl
      omega
    · rw [emitStuffed_room _ (by omega)]
      exact ⟨rfl, rfl, rfl, rfl⟩
  case isFalse hpos =>
    refine ⟨List.prefix_refl _, ?_, fun _ => ⟨rfl, rfl, rfl, rfl⟩⟩
    have hnext : (w.bytePos - 1#3).toNat = w.bytePos.toNat - 1 := by bv_omega
    simp only [Writer.load, hnext]
    omega

theorem sendBits_sendsAtMost (n v : Nat) (w : Writer) : SendsAtMost cap n w (sendBits cap n v w) := by
  induction n generalizing w with
  | zero => exact .refl w
  | succ n ih => exact ((sendBit_sendsAtMost _ w).trans (ih _)).mono (by omega)

variable {ht : List HuffCode} {w w' : Writer}

theorem putBits_sendsAtMost {n v : Nat} (h : putBits cap n v w = .ok w') : SendsAtMost cap n w w' := by
  rw [(putBits_ok h).2]
  exact sendBits_sendsAtMost n v w

/-! ## How many bits the coding sends (43_entropy.md R233) -/

/-- A code has at most 16 bits. -/
theorem putCode_sendsAtMost {sym : Nat} (h : putCode cap ht sym w = .ok w') : SendsAtMost cap 16 w w' := by
  unfold putCode at h
  split at h
  · exact (putBits_sendsAtMost h).mono (putBits_ok h).1.1
  · cases h

theorem putValue_sendsAtMost {sym : Nat} {v : Int} (h : putValue cap ht sym v w = .ok w') :
    SendsAtMost cap (16 + category v) w w' := by
  obtain ⟨u, hcode, h⟩ := andThen_eq_ok.mp h
  refine (putCode_sendsAtMost hcode).trans ?_
  split at h
  · cases h
    exact (SendsAtMost.refl _).mono (Nat.zero_le _)
  · exact putBits_sendsAtMost h

theorem putZrls_sendsAtMost {n : Nat} (h : putZrls cap ht n w = .ok w') : SendsAtMost cap (16 * n) w w' := by
  induction n generalizing w with
  | zero => cases h; exact .refl _
  | succ n ih =>
    obtain ⟨u, hcode, h⟩ := andThen_eq_ok.mp h
    exact ((putCode_sendsAtMost hcode).trans (ih h)).mono (by omega)

/-- A scan sends at most 26 bits for each position: a ZRL is 16 bits for sixteen of them. -/
theorem scanAc_sendsAtMost {vs : List Int} (hvs : ∀ v ∈ vs, v.natAbs ≤ 1023) {run : Nat}
    (h : scanAc cap ht vs run w = .ok w') : SendsAtMost cap (26 * (run + vs.length)) w w' := by
  induction vs generalizing run w with
  | nil => cases h; exact (SendsAtMost.refl _).mono (Nat.zero_le _)
  | cons v vs ih =>
    obtain ⟨hv, hvs⟩ := List.forall_mem_cons.mp hvs
    have hcat := category_le_ten hv
    rw [List.length_cons]
    simp only [scanAc] at h
    split at h
    · exact (ih hvs h).mono (by omega)
    · obtain ⟨u, hzrls, h⟩ := andThen_eq_ok.mp h
      obtain ⟨x, hvalue, h⟩ := andThen_eq_ok.mp h
      refine ((putZrls_sendsAtMost hzrls).trans ((putValue_sendsAtMost hvalue).trans (ih hvs h))).mono ?_
      omega

/-- EOB takes the place of a position that is not scanned. -/
theorem encodeAc_sendsAtMost {du : Vector Int 64} (hac : ∀ k, 1 ≤ k → k < 64 → (pick du k 0).natAbs ≤ 1023)
    (h : encodeAc cap ht du w = .ok w') : SendsAtMost cap (63 * (16 + 10)) w w' := by
  have hle := lastNonzero_le du
  rw [encodeAc_eq] at h
  obtain ⟨u, hscan, h⟩ := andThen_eq_ok.mp h
  have hscanned := scanAc_sendsAtMost (scannedAc_small hac) hscan
  rw [length_scannedAc] at hscanned
  split at h
  · cases h
    exact hscanned.mono (by omega)
  · exact (hscanned.trans (putCode_sendsAtMost h)).mono (by omega)

theorem codeUnit_sendsAtMost {dc ac : HuffSpec} {pred : Int} {du : Vector Int 64} (hcod : codable pred du)
    (h : codeUnit cap dc ac pred du w = .ok w') : SendsAtMost cap (16 + 11 + 63 * (16 + 10)) w w' := by
  obtain ⟨hdc, hac⟩ := hcod
  obtain ⟨u, hdiff, h⟩ := andThen_eq_ok.mp h
  have hcat : category (pick du 0 0 - pred) ≤ 11 := category_le_iff.mpr (by omega)
  exact ((putValue_sendsAtMost hdiff).mono (by omega)).trans (encodeAc_sendsAtMost hac h)

/-- Settles O27: an MCU is at most 4995 bits, which with 7 pending ones complete at most 625 bytes. -/
theorem blockAppendsAtMost1250Bytes : Obligations.BlockAppendsAtMost1250Bytes := by
  intro s y cb cr w hy hcb hcr h
  obtain ⟨u, hu, h⟩ := andThen_eq_ok.mp h
  obtain ⟨v, hv, h⟩ := andThen_eq_ok.mp h
  have hmcu := (codeUnit_sendsAtMost hy hu).trans ((codeUnit_sendsAtMost hcb hv).trans (codeUnit_sendsAtMost hcr h))
  have hbefore : s.wr.load ≤ 4 * s.wr.out.length + 7 := by unfold Writer.load; omega
  have hafter : 4 * w.out.length ≤ w.load := Nat.le_add_right _ _
  have hload := hmcu.load_le
  exact ⟨hmcu.grows, by omega, fun hroom => hmcu.noOverflow (by omega)⟩

end Sys2Proof.Machine
end

section
/-! PROOFS. Without an overflow the entropy-coded bytes stay stuffed (44_bitwriter.md R262, R267). -/

namespace Sys2Proof.Machine

/-! ## Stuffed byte lists -/

theorem stuffed_tail {b : Byte} {bs : List Byte} (h : stuffed (b :: bs) = true) : stuffed bs = true := by
  cases bs with
  | nil => rfl
  | cons c cs => exact (Bool.and_eq_true_iff.mp h).2

theorem stuffed_drop {bs : List Byte} (h : stuffed bs = true) (n : Nat) : stuffed (bs.drop n) = true := by
  induction n generalizing bs with
  | zero => exact h
  | succ n ih =>
    cases bs with
    | nil => rfl
    | cons b bs => exact ih (stuffed_tail h)

/-- A stuffed list does not end in FF, so whatever stuffed bytes may follow it. -/
theorem stuffed_append {as bs : List Byte} (ha : stuffed as = true) (hb : stuffed bs = true) :
    stuffed (as ++ bs) = true := by
  induction as using stuffed.induct with
  | case1 => exact hb
  | case2 a =>
    cases bs with
    | nil => exact ha
    | cons b bs => exact Bool.and_eq_true_iff.mpr ⟨Bool.or_eq_true_iff.mpr (.inl ha), hb⟩
  | case3 a c as ih => exact Bool.and_eq_true_iff.mpr ⟨(Bool.and_eq_true_iff.mp ha).1, ih (stuffed_tail ha)⟩

theorem stuffed_stuffByte (b : Byte) : stuffed (stuffByte b) = true := by
  unfold stuffByte
  split
  · rfl
  · exact bne_iff_ne.mpr ‹_›

/-! ## Appending bytes without an overflow (20_memory.md R64) -/

section
variable {cap : Nat}

/-- Without an overflow every byte of a list has gone out. -/
theorem emitRaws_of_noOverflow {bs : List Byte} {w : Writer} (hno : (emitRaws cap bs w).ovf = false) :
    emitRaws cap bs w = { w with out := w.out ++ bs } := by
  induction bs generalizing w with
  | nil => simp [emitRaws]
  | cons b bs ih =>
    change (emitRaws cap bs (outAppend cap b w)).ovf = false at hno
    change emitRaws cap bs (outAppend cap b w) = _
    have hfits : (outAppend cap b w).ovf ≠ true := fun hovf =>
      absurd (hno.symm.trans (emitRaws_keeps (P := fun w => w.ovf = true) (fun b _ => outAppend_ovf b) bs hovf))
        Bool.false_ne_true
    obtain ⟨-, happend⟩ | ⟨-, -, hfull⟩ | ⟨-, hovf, hfull⟩ := outAppend_cases cap b w
    · rw [ih hno, happend, List.append_assoc, List.singleton_append]
    · exact absurd (by rw [hfull, recordError_ovf]) hfits
    · exact absurd (by rw [hfull, hovf]) hfits

/-- EmitStuffed is EmitRaw on the byte and its stuffing (44_bitwriter.md R262, R263). -/
theorem emitStuffed_eq_emitRaws (b : Byte) (w : Writer) : emitStuffed cap b w = emitRaws cap (stuffByte b) w := by
  unfold emitStuffed stuffByte
  split
  · subst b
    rfl
  · rfl

/-! ## The bytes past the header -/

/-- Without an overflow the output past the header is stuffed. -/
def ScanStuffed (w : Writer) : Prop := w.ovf = false → stuffed (w.out.drop 607) = true

theorem emitStuffed_scanStuffed (b : Byte) {w : Writer} (h : ScanStuffed w) : ScanStuffed (emitStuffed cap b w) := by
  intro hno
  rw [emitStuffed_eq_emitRaws] at hno ⊢
  have happend := emitRaws_of_noOverflow hno
  rw [happend] at hno ⊢
  rw [List.drop_append]
  exact stuffed_append (h hno) (stuffed_drop (stuffed_stuffByte b) _)

theorem sendBit_scanStuffed (b : Bool) {w : Writer} (h : ScanStuffed w) : ScanStuffed (sendBit cap b w) := by
  unfold sendBit
  split
  · exact emitStuffed_scanStuffed _ h
  · exact h

theorem sending_scanStuffed : keptBySending cap ScanStuffed := by
  intro n v w h
  induction n generalizing w with
  | zero => exact h
  | succ n ih => exact ih _ (sendBit_scanStuffed _ h)

/-- EOI ends the entropy-coded bytes: without it they are what they were (45_framer.md R288). -/
theorem scan_emitEoi {w : Writer} (hlen : 607 ≤ w.out.length) (hno : (emitEoi cap w).ovf = false) :
    w.ovf = false ∧
      ((emitEoi cap w).out.drop 607).take ((emitEoi cap w).out.length - 609) = w.out.drop 607 := by
  have happend : emitEoi cap w = { w with out := w.out ++ wordBytes 0xFFD9#16 } := emitRaws_of_noOverflow hno
  rw [happend] at hno ⊢
  refine ⟨hno, ?_⟩
  rw [List.drop_append_of_le_length hlen]
  refine List.take_left' ?_
  rw [List.length_drop, List.length_append]
  simp [wordBytes]

end

/-! ## The commands that write the output -/

theorem scanSound_iff_of_incomplete {s : State} (h : s.complete = false) : scanSound s ↔ ScanStuffed s.wr := by
  rw [scanSound, scanBytes, h]
  rfl

theorem scanSound_congr {s t : State} (hout : t.wr.out = s.wr.out) (hovf : t.wr.ovf = s.wr.ovf)
    (hcomplete : t.complete = s.complete) (h : scanSound s) : scanSound t := by
  rwa [scanSound, scanBytes, hout, hovf, hcomplete]

theorem scanSound_of_empty {s : State} (h : s.wr.out.drop 607 = []) : scanSound s := by
  intro _
  rw [scanBytes, h, List.take_nil, ite_self]
  rfl

section
variable {s t : State}

theorem refuseWith_scanSound (c : ErrCode) (h : scanSound s) : scanSound (refuseWith c s) :=
  scanSound_congr (recordError_out c s.wr) (recordError_ovf c s.wr) rfl h

theorem execStart_scanSound (hinv : Inv s) (hs : scanSound s) (h : execStart s = .next t) : scanSound t := by
  obtain ⟨-, rfl⟩ | ⟨-, -, rfl⟩ | ⟨-, -, rfl⟩ | ⟨-, -, -, -, rfl⟩ := execStart_next h
  · exact refuseWith_scanSound _ hs
  · exact refuseWith_scanSound _ hs
  · exact refuseWith_scanSound _ hs
  · refine scanSound_of_empty ?_
    rw [emitHeader_openSession hinv.params]
    exact List.drop_eq_nil_of_le (headerBytes_length s).le

theorem execBlock_scanSound (hinv : Inv s) (hs : scanSound s) (h : execBlock s = .next t) : scanSound t := by
  obtain ⟨-, rfl⟩ | ⟨-, -, rfl⟩ | ⟨hr, -, -, y, cb, cr, w, -, hw, rfl⟩ := execBlock_next h
  · exact refuseWith_scanSound _ hs
  · exact refuseWith_scanSound _ hs
  · have hcomplete := (hinv.running_bits hr).1
    have hbefore := (scanSound_iff_of_incomplete hcomplete).mp hs
    exact (scanSound_iff_of_incomplete (by simpa using hcomplete)).mpr
      (by simpa using codeUnits_keeps sending_scanStuffed hw hbefore)

theorem header_le_length (hinv : Inv s) (hr : s.running = true) : 607 ≤ s.wr.out.length := by
  obtain ⟨-, -, hheader, -, -⟩ := hinv.session hr
  have hlen := congrArg List.length hheader
  rw [headerBytes_length, List.length_take] at hlen
  omega

theorem execTail_scanSound (hinv : Inv s) (hs : scanSound s) (h : execTail s = .next t) : scanSound t := by
  obtain ⟨-, rfl⟩ | ⟨-, -, rfl⟩ | ⟨hr, -, w, hw, rfl⟩ := execTail_next h
  · exact refuseWith_scanSound _ hs
  · exact refuseWith_scanSound _ hs
  · have hbefore := (scanSound_iff_of_incomplete (hinv.running_bits hr).1).mp hs
    have hpad : ScanStuffed w := padToByte_keeps sending_scanStuffed hw hbefore
    have hgrows := (padToByte_keeps (sending_grows s.wr.out) hw ⟨List.prefix_refl _, hinv.room⟩).1
    intro hno
    rw [closeSession_wr] at hno
    rw [scanBytes, closeSession_complete, if_pos rfl, closeSession_wr]
    obtain ⟨hpadno, hscan⟩ := scan_emitEoi ((header_le_length hinv hr).trans hgrows.length_le) hno
    rw [hscan]
    exact hpad hpadno

theorem execDispose_scanSound (hs : scanSound s) (h : execDispose s = .next t) : scanSound t := by
  obtain ⟨-, rfl⟩ | ⟨-, rfl⟩ := execDispose_next h
  · exact hs
  · exact scanSound_of_empty rfl

/-- START, BLOCK, TAIL and DISPOSE one by one; nothing else writes the output, its overflow bit or COMPLETE. -/
theorem exec_scanSound {i : Instr} (hi : WellFormed i = true) (hinv : Inv s) (hs : scanSound s)
    (h : exec i s = .next t) : scanSound t := by
  by_cases hc : i ∈ [Instr.start, .block, .tail, .dispose]
  · simp only [List.mem_cons, List.not_mem_nil, or_false] at hc
    obtain rfl | rfl | rfl | rfl := hc
    · exact execStart_scanSound hinv hs h
    · exact execBlock_scanSound hinv hs h
    · exact execTail_scanSound hinv hs h
    · exact execDispose_scanSound hs h
  · obtain ⟨-, houtput, -, -, -, -, hcomplete, -⟩ := sessionStateHasItsWriters i s t hi h
    obtain ⟨hout, hovf⟩ := houtput hc
    exact scanSound_congr hout hovf (hcomplete fun hmem => hc (by simp at hmem ⊢; tauto)) hs

end

/-- Settles O15: a reset empties the output, and every well-formed instruction keeps the property. -/
theorem scanStaysStuffed : Obligations.ScanStaysStuffed := fun _ _ hinv hs h =>
  step_leads_to (P := fun s => Inv s ∧ scanSound s) (fun _ hs => hs.2) (fun _ _ hs => ⟨{ hs.1 with }, hs.2⟩)
    (fun s _ => resetWith_scanSound s.par) (fun _ _ _ hi hs h => exec_scanSound hi hs.1 hs.2 h) ⟨hinv, hs⟩ h

end Sys2Proof.Machine
end

section
/-! PROOFS. PutBits sends the bits of its argument, most significant first, behind the pending ones (44_bitwriter.md
R260 to R262). -/

namespace Sys2Proof.Machine

/-! ## The byte in progress -/

/-- A code is its first bit and then the code of its other bits. -/
theorem msbBits_succ (n v : Nat) : msbBits (n + 1) v = v.testBit n :: msbBits n v := by
  simp only [msbBits, List.range_succ_eq_map, List.map_cons, List.map_map, Nat.add_sub_cancel, Nat.sub_zero]
  congr 1
  refine List.map_congr_left fun j _ => ?_
  rw [Function.comp_apply, Nat.succ_eq_add_one, Nat.sub_sub, Nat.add_comm 1 j]

theorem getElem_msbBits {n v j : Nat} (h : j < (msbBits n v).length) : (msbBits n v)[j] = v.testBit (n - 1 - j) := by
  simp [msbBits]

/-- The bits not sent yet are 0 (44_bitwriter.md R260). -/
theorem accumulatorClear.getLsbD {w : Writer} (h : accumulatorClear w) {i : Nat} (hi : i ≤ w.bytePos.toNat) :
    w.byteNew.getLsbD i = false := by
  have hbit := Nat.testBit_mod_two_pow w.byteNew.toNat (w.bytePos.toNat + 1) i
  rw [h, Nat.zero_testBit, decide_eq_true (by omega), Bool.true_and] at hbit
  exact hbit.symm

/-- The new bit stands at BYTE_POS. -/
theorem getLsbD_landBit_bytePos {w : Writer} (h : accumulatorClear w) (b : Bool) :
    (landBit b w).getLsbD w.bytePos.toNat = b := by
  have hpos := w.bytePos.isLt
  cases b with
  | false => exact h.getLsbD le_rfl
  | true => simp [landBit, hpos]

/-- The bits above BYTE_POS stay as they are. -/
theorem getLsbD_landBit_above (b : Bool) {w : Writer} {i : Nat} (hi : w.bytePos.toNat < i) :
    (landBit b w).getLsbD i = w.byteNew.getLsbD i := by
  cases b with
  | false => rfl
  | true =>
    have hzero : i - w.bytePos.toNat ≠ 0 := by omega
    simp [landBit, hzero]

/-- The new bit stands behind the pending ones. -/
theorem take_landBit {w : Writer} (h : accumulatorClear w) (b : Bool) :
    (msbBits 8 (landBit b w).toNat).take (8 - w.bytePos.toNat) = pendingBits w ++ [b] := by
  have hpos := w.bytePos.isLt
  refine List.ext_getElem (by simp [pendingBits]; omega) fun j hj _ => ?_
  rw [List.length_take, length_msbBits] at hj
  rw [List.getElem_take, getElem_msbBits]
  change (landBit b w).getLsbD (7 - j) = _
  by_cases hlast : j = 7 - w.bytePos.toNat
  · rw [show 7 - j = w.bytePos.toNat by omega, getLsbD_landBit_bytePos h]
    subst hlast
    simp [pendingBits]
  · rw [getLsbD_landBit_above b (by omega), List.getElem_append_left (by simp [pendingBits]; omega)]
    simp only [pendingBits, List.getElem_take, getElem_msbBits]
    rfl

/-! ## Sending bits -/

/-- `w'` is `w` after `bits`: the bits pending before and then `bits` are the bits of the completed bytes, which are in
the output with their stuffing, and then the bits pending after. -/
def Sends (bits : List Bool) (w w' : Writer) : Prop :=
  ∃ bytes : List Byte,
    w' = { w with out := w.out ++ bytes.flatMap stuffByte, byteNew := w'.byteNew, bytePos := w'.bytePos } ∧
    pendingBits w ++ bits = (bytes.flatMap fun b => msbBits 8 b.toNat) ++ pendingBits w'

theorem Sends.refl (w : Writer) : Sends [] w w := ⟨[], by simp, by simp⟩

theorem Sends.trans {xs ys : List Bool} {w u x : Writer} (h : Sends xs w u) (h' : Sends ys u x) :
    Sends (xs ++ ys) w x := by
  obtain ⟨bytes, hu, hbits⟩ := h
  obtain ⟨bytes', hx, hbits'⟩ := h'
  refine ⟨bytes ++ bytes', ?_, ?_⟩
  · rw [hu] at hx
    simpa using hx
  · rw [← List.append_assoc, hbits, List.append_assoc, hbits', List.flatMap_append, List.append_assoc]

/-- Two bytes are free for each byte that `n` more bits complete. -/
def HasRoom (cap n : Nat) (w : Writer) : Prop := w.out.length + 2 * ((7 - w.bytePos.toNat + n) / 8) ≤ cap

theorem length_stuffByte_le (b : Byte) : (stuffByte b).length ≤ 2 := by
  unfold stuffByte
  split <;> simp

section
variable {cap : Nat}

/-- One bit completes the byte or stays pending. -/
theorem sendBit_sends {n : Nat} (b : Bool) {w : Writer} (hclear : accumulatorClear w) (hroom : HasRoom cap (n + 1) w) :
    Sends [b] w (sendBit cap b w) ∧ HasRoom cap n (sendBit cap b w) := by
  have hland := take_landBit hclear b
  unfold HasRoom at *
  unfold sendBit
  split
  case isTrue hpos =>
    have hlen := length_stuffByte_le (landBit b w)
    rw [hpos, BitVec.toNat_ofNat] at hroom
    rw [emitStuffed_room _ (by omega)]
    refine ⟨⟨[landBit b w], by simp, ?_⟩, ?_⟩
    · rw [← hland, hpos]
      simp [pendingBits]
    · simp only [List.length_append, BitVec.toNat_ofNat]
      omega
  case isFalse hpos =>
    have hnext : (w.bytePos - 1#3).toNat = w.bytePos.toNat - 1 := by bv_omega
    have hpos0 : w.bytePos.toNat ≠ 0 := fun h0 => hpos (BitVec.eq_of_toNat_eq h0)
    refine ⟨⟨[], by simp, ?_⟩, ?_⟩
    · rw [← hland, pendingBits, hnext, show 7 - (w.bytePos.toNat - 1) = 8 - w.bytePos.toNat by omega]
      rfl
    · simp only [hnext]
      omega

theorem sendBits_sends {n : Nat} (v : Nat) {w : Writer} (hclear : accumulatorClear w) (hroom : HasRoom cap n w) :
    Sends (msbBits n v) w (sendBits cap n v w) := by
  induction n generalizing w with
  | zero => exact .refl w
  | succ n ih =>
    obtain ⟨hbit, hrest⟩ := sendBit_sends (v.testBit n) hclear hroom
    rw [msbBits_succ]
    exact hbit.trans (ih (sendBit_clear cap _ w hclear) hrest)

end

/-- Settles O56: with the pending bits at most 23, which complete at most two bytes, so four bytes are room enough. -/
theorem putBitsSendsTheBits : Obligations.PutBitsSendsTheBits := by
  refine fun cap n v w => ⟨fun hn hv hroom hclear => ?_, fun hguard => if_neg hguard⟩
  obtain ⟨bytes, hout, hbits⟩ := sendBits_sends (cap := cap) (n := n) v hclear (by unfold HasRoom; omega)
  exact ⟨sendBits cap n v w, bytes, putBits_eq w hn hv, hout, hbits, sendBits_clear cap n v w hclear⟩

end Sys2Proof.Machine
end

section
/-! PROOFS. The header segment by segment (45_framer.md R280 to R287). -/

namespace Sys2Proof.Machine

/-! ## The bytes of each segment -/

/-- A 16-bit value is sent big-endian (44_bitwriter.md R264). -/
theorem wordBytes_bigEndian (v : BitVec 16) :
    wordBytes v = [BitVec.ofNat 8 (v.toNat / 256), BitVec.ofNat 8 (v.toNat % 256)] := by
  have hhigh : v.extractLsb' 8 8 = BitVec.ofNat 8 (v.toNat / 256) := by
    rw [BitVec.extractLsb', Nat.shiftRight_eq_div_pow]
  have hlow : v.extractLsb' 0 8 = BitVec.ofNat 8 (v.toNat % 256) := by
    rw [BitVec.extractLsb', Nat.shiftRight_zero]
    bv_omega
  rw [wordBytes, hhigh, hlow]

theorem app0Bytes_eq : app0Bytes = [0xFF#8, 0xE0#8, 0x00#8, 0x10#8, 0x4A#8, 0x46#8, 0x49#8, 0x46#8, 0x00#8, 0x01#8,
    0x01#8, 0x00#8, 0x00#8, 0x01#8, 0x00#8, 0x01#8, 0x00#8, 0x00#8] :=
  rfl

theorem dqtBytes_eq (qtY qtC : Vector Byte 64) :
    dqtBytes qtY qtC = [0xFF#8, 0xDB#8, 0x00#8, 0x84#8, 0x00#8] ++ qtY.toList ++ [0x01#8] ++ qtC.toList :=
  rfl

theorem sof0Bytes_eq (width height : BitVec 16) :
    sof0Bytes width height = [0xFF#8, 0xC0#8, 0x00#8, 0x11#8, 0x08#8] ++
      [BitVec.ofNat 8 (height.toNat / 256), BitVec.ofNat 8 (height.toNat % 256)] ++
      [BitVec.ofNat 8 (width.toNat / 256), BitVec.ofNat 8 (width.toNat % 256)] ++
      [0x03#8, 0x01#8, 0x11#8, 0x00#8, 0x02#8, 0x11#8, 0x01#8, 0x03#8, 0x11#8, 0x01#8] := by
  rw [← wordBytes_bigEndian, ← wordBytes_bigEndian]
  rfl

theorem dhtBytes_eq : dhtBytes = [0xFF#8, 0xC4#8, 0x01#8, 0xA2#8] ++ dhtTable 0x00#8 dcLuma ++
    dhtTable 0x10#8 acLuma ++ dhtTable 0x01#8 dcChroma ++ dhtTable 0x11#8 acChroma :=
  rfl

theorem sosBytes_eq : sosBytes = [0xFF#8, 0xDA#8, 0x00#8, 0x0C#8, 0x03#8, 0x01#8, 0x00#8, 0x02#8, 0x11#8, 0x03#8,
    0x11#8, 0x00#8, 0x3F#8, 0x00#8] :=
  rfl

/-! ## The offsets of the segments (45_framer.md R287) -/

theorem dqtBytes_length (qtY qtC : Vector Byte 64) : (dqtBytes qtY qtC).length = 134 := by
  simp [dqtBytes_eq]

theorem sof0Bytes_length (width height : BitVec 16) : (sof0Bytes width height).length = 19 :=
  rfl

theorem dhtTable_length (tcth : Byte) (t : HuffSpec) :
    (dhtTable tcth t).length = t.bits.length + t.vals.length + 1 := by
  simp [dhtTable]

/-- Beside its class and its 16 counts a DC table has 12 values and an AC table 162 (43_entropy.md R226). -/
theorem dhtBytes_length : dhtBytes.length = 420 := by
  simp only [dhtBytes_eq, List.length_append, dhtTable_length]
  simp [dcLuma, acLuma, dcChroma, acChroma]

/-- Cutting a segment off what stands at an offset gives the segment and what stands behind it. -/
theorem cut_segment {α : Type} {n m : Nat} {bytes seg rest : List α} (hat : bytes.drop n = seg ++ rest)
    (hlen : seg.length = m) : (bytes.drop n).take m = seg ∧ bytes.drop (n + m) = rest := by
  rw [← List.drop_drop, hat]
  exact ⟨List.take_left' hlen, List.drop_left' hlen⟩

/-- The header cut at 2, 20, 154, 173 and 593 is its segments (45_framer.md R280, R287). -/
theorem headerBytes_segments (s : State) :
    (headerBytes s).take 2 = soiBytes ∧
    ((headerBytes s).drop 2).take 18 = app0Bytes ∧
    ((headerBytes s).drop 20).take 134 = dqtBytes s.qtY s.qtC ∧
    ((headerBytes s).drop 154).take 19 = sof0Bytes s.width s.height ∧
    ((headerBytes s).drop 173).take 420 = dhtBytes ∧
    (headerBytes s).drop 593 = sosBytes := by
  have hat0 : (headerBytes s).drop 0 = soiBytes ++ (app0Bytes ++ (dqtBytes s.qtY s.qtC ++
      (sof0Bytes s.width s.height ++ (dhtBytes ++ sosBytes)))) := by
    simp only [headerBytes, List.drop_zero, List.append_assoc]
  obtain ⟨hsoi, hat2⟩ := cut_segment hat0 rfl
  obtain ⟨happ0, hat20⟩ := cut_segment hat2 rfl
  obtain ⟨hdqt, hat154⟩ := cut_segment hat20 (dqtBytes_length s.qtY s.qtC)
  obtain ⟨hsof0, hat173⟩ := cut_segment hat154 (sof0Bytes_length s.width s.height)
  obtain ⟨hdht, hat593⟩ := cut_segment hat173 dhtBytes_length
  exact ⟨hsoi, happ0, hdqt, hsof0, hdht, hat593⟩

/-- Settles O25: the header is cut into its segments, and each segment has its bytes. -/
theorem headerLayout : Obligations.HeaderLayout := by
  intro s
  obtain ⟨hsoi, happ0, hdqt, hsof0, hdht, hsos⟩ := headerBytes_segments s
  rw [sof0Bytes_eq] at hsof0
  exact ⟨headerBytes_length s, hsoi, happ0.trans app0Bytes_eq, hdqt.trans (dqtBytes_eq s.qtY s.qtC), hsof0,
    hdht.trans dhtBytes_eq, hsos.trans sosBytes_eq⟩

end Sys2Proof.Machine
end

section
/-! PROOFS. The error of one binary64 operation (00_scope.md R9): a sum, product or quotient up to 2^31 lies
within 2^-20 of the exact one. Values are rational numbers here. -/

namespace Sys2Proof.Machine

/-! ## The value of a binary64 number -/

/-- The value of a finite binary64 number. -/
def f64Val (x : F64) : ℚ := (f64Units x : ℚ) / (f64One : ℚ)

theorem f64One_cast_rat : (f64One : ℚ) = 2 ^ 1074 := by
  rw [f64One, Nat.cast_pow, Nat.cast_ofNat]

/-- A quotient of units compared with `n` units of the place `1074 - k`, and its value with `n` multiples of 2^-k. -/
theorem place_le_iff {e k : Nat} (h : e + k = 1074) (n m : Int) {den : Int} (hd : 0 < den) :
    (n * 2 ^ e * den ≤ m ↔ (n : ℚ) ≤ m / den / f64One * 2 ^ k) ∧
      (m ≤ n * 2 ^ e * den ↔ (m / den / f64One * 2 ^ k : ℚ) ≤ n) := by
  have hden : (0 : ℚ) < den := Int.cast_pos.mpr hd
  have hquot : (m / den / f64One * 2 ^ k : ℚ) = m / (2 ^ e * den) := by
    rw [f64One_cast_rat, ← h, pow_add]
    field_simp
  have hpos : (0 : ℚ) < 2 ^ e * den := by positivity
  rw [hquot, le_div_iff₀ hpos, div_le_iff₀ hpos, ← Int.cast_le (R := ℚ), ← Int.cast_le (R := ℚ), mul_assoc]
  push_cast
  exact ⟨Iff.rfl, Iff.rfl⟩

theorem between_iff_val {e k : Nat} (h : e + k = 1074) {lo hi : Int} {x : F64} :
    Between e lo hi x ↔ f64Finite x = true ∧ lo ≤ f64Val x * 2 ^ k ∧ f64Val x * 2 ^ k ≤ hi := by
  have hlo := (place_le_iff h lo (f64Units x) Int.one_pos).1
  have hhi := (place_le_iff h hi (f64Units x) Int.one_pos).2
  rw [mul_one, Int.cast_one, div_one] at hlo hhi
  rw [Between, hlo, hhi, f64Val]

@[simp] theorem f64Val_fneg (x : F64) : f64Val (fneg x) = -f64Val x := by
  rw [f64Val, f64Units_fneg, Int.cast_neg, neg_div, f64Val]

/-! ## The error of one operation -/

/-- `x` is finite and its value lies within `ε` of `q`. -/
def Approx (x : F64) (q ε : ℚ) : Prop := f64Finite x = true ∧ |f64Val x - q| ≤ ε

/-- A value between the two multiples of 2^-20 around `q`. -/
theorem Between.approx {q : ℚ} {r : F64} (h : Between 1054 ⌊q * 2 ^ 20⌋ (⌊q * 2 ^ 20⌋ + 1) r) :
    Approx r q (1 / 2 ^ 20) := by
  obtain ⟨hfin, hlo, hhi⟩ := (between_iff_val (k := 20) rfl).mp h
  have hfloor := Int.floor_le (q * 2 ^ 20)
  have hceil := Int.lt_floor_add_one (q * 2 ^ 20)
  push_cast at hhi
  exact ⟨hfin, by rw [abs_le]; constructor <;> linarith⟩

/-- The multiples of 2^-20 around a value up to 2^31 have at most 53 bits. -/
theorem floor_natAbs_lt {q : ℚ} (h : |q| ≤ 2 ^ 31) :
    ⌊q * 2 ^ 20⌋.natAbs < 2 ^ 53 ∧ (⌊q * 2 ^ 20⌋ + 1).natAbs < 2 ^ 53 := by
  obtain ⟨hlo, hhi⟩ := abs_le.mp h
  have hl : -2 ^ 51 ≤ ⌊q * 2 ^ 20⌋ := Int.le_floor.mpr (by push_cast; linarith)
  have hh : ⌊q * 2 ^ 20⌋ ≤ 2 ^ 51 := Int.cast_le.mp ((Int.floor_le (q * 2 ^ 20)).trans (by push_cast; linarith))
  omega

/-- The multiples of 2^-20 around a quotient of units. -/
theorem floor_place (m : Int) {den : Int} (hd : 0 < den) {q : ℚ} (hq : (m / den / f64One : ℚ) = q) :
    ⌊q * 2 ^ 20⌋ * 2 ^ 1054 * den ≤ m ∧ m ≤ (⌊q * 2 ^ 20⌋ + 1) * 2 ^ 1054 * den := by
  subst hq
  refine ⟨(place_le_iff (k := 20) rfl _ m hd).1.mpr (Int.floor_le _), (place_le_iff (k := 20) rfl _ m hd).2.mpr ?_⟩
  push_cast
  exact (Int.lt_floor_add_one _).le

theorem fadd_approx {x y : F64} (hx : f64Finite x = true) (hy : f64Finite y = true) (hxb : |f64Val x| ≤ 2 ^ 30)
    (hyb : |f64Val y| ≤ 2 ^ 30) : Approx (fadd x y) (f64Val x + f64Val y) (1 / 2 ^ 20) := by
  have coarse {z : F64} (hz : f64Finite z = true) (hzb : |f64Val z| ≤ 2 ^ 30) : Between 1074 (-2 ^ 30) (2 ^ 30) z := by
    obtain ⟨hlo, hhi⟩ := abs_le.mp hzb
    exact (between_iff_val (k := 0) rfl).mpr ⟨hz, by push_cast; linarith, by push_cast; linarith⟩
  have hfin := (fadd_between (coarse hx hxb) (coarse hy hyb) (by decide) (by decide) (by decide)).1
  obtain ⟨hlo, hhi⟩ := floor_natAbs_lt (q := f64Val x + f64Val y) (by linarith [abs_add_le (f64Val x) (f64Val y)])
  obtain ⟨hl, hh⟩ := floor_place (f64Units x + f64Units y) Int.one_pos (q := f64Val x + f64Val y) (by
    rw [f64Val, f64Val]; push_cast; ring)
  obtain ⟨zl, hzl⟩ := exists_f64Units_eq hlo (e := 1054) (by decide)
  obtain ⟨zh, hzh⟩ := exists_f64Units_eq hhi (e := 1054) (by decide)
  rw [← hzl] at hl
  rw [← hzh] at hh
  exact Between.approx ⟨hfin, hzl ▸ (fadd_nearestAgainst hx hy zl).ge Nat.one_pos hfin hl,
    hzh ▸ (fadd_nearestAgainst hx hy zh).le Nat.one_pos hfin hh⟩

theorem fmul_approx {x y : F64} (hx : f64Finite x = true) (hy : f64Finite y = true)
    (h : |f64Val x * f64Val y| ≤ 2 ^ 31) : Approx (fmul x y) (f64Val x * f64Val y) (1 / 2 ^ 20) := by
  obtain ⟨hlo, hhi⟩ := floor_natAbs_lt h
  obtain ⟨hl, hh⟩ := floor_place (f64Units x * f64Units y) (Int.natCast_pos.mpr f64One_pos)
    (q := f64Val x * f64Val y) (by rw [f64Val, f64Val]; push_cast; ring)
  exact (fmul_between_of_le hx hy (by decide) hlo hhi hl hh).approx

theorem fdiv_approx {x y : F64} (hx : f64Finite x = true) (hy : f64Finite y = true) (hpos : 0 < f64Val y)
    (h : |f64Val x / f64Val y| ≤ 2 ^ 31) : Approx (fdiv x y) (f64Val x / f64Val y) (1 / 2 ^ 20) := by
  have hone : (0 : ℚ) < f64One := Nat.cast_pos.mpr f64One_pos
  have hunits : 0 < f64Units y := Int.cast_pos.mp ((div_pos_iff_of_pos_right hone).mp hpos)
  obtain ⟨hlo, hhi⟩ := floor_natAbs_lt h
  obtain ⟨hl, hh⟩ := floor_place (f64Units x * f64One) hunits (q := f64Val x / f64Val y) (by
    rw [f64Val, f64Val]; push_cast; field_simp)
  exact (fdiv_between_of_le hx hy hunits (by decide) hlo hhi hl hh).approx

end Sys2Proof.Machine
end

section
/-! PROOFS. One AAN pass (41_color_fdct.md R167): how far its outputs lie from those of the same pass without roundings,
and the range of the latter. -/

namespace Sys2Proof.Machine

/-! ## One pass without roundings (41_color_fdct.md R167) -/

/-- A rotation constant as the rational number the spec writes. -/
def rotation (num : Nat) : ℚ := num / 1000000000

/-- Output `k` of `aanPass`, without roundings. -/
def exactPass (x : Nat → ℚ) (k : Nat) : ℚ :=
  let tmp0 := x 0 + x 7
  let tmp7 := x 0 - x 7
  let tmp1 := x 1 + x 6
  let tmp6 := x 1 - x 6
  let tmp2 := x 2 + x 5
  let tmp5 := x 2 - x 5
  let tmp3 := x 3 + x 4
  let tmp4 := x 3 - x 4
  let even10 := tmp0 + tmp3
  let even13 := tmp0 - tmp3
  let even11 := tmp1 + tmp2
  let even12 := tmp1 - tmp2
  let z1 := (even12 + even13) * rotation 707106781
  let odd10 := tmp4 + tmp5
  let odd11 := tmp5 + tmp6
  let odd12 := tmp6 + tmp7
  let z5 := (odd10 - odd12) * rotation 382683433
  let z2 := rotation 541196100 * odd10 + z5
  let z4 := rotation 1306562965 * odd12 + z5
  let z3 := odd11 * rotation 707106781
  let z11 := tmp7 + z3
  let z13 := tmp7 - z3
  [even10 + even11, z11 + z4, even13 + z1, z13 - z2, even10 - even11, z13 + z2, even13 - z1, z11 - z4].getD k 0

/-! ## The error of one pass -/

/-- `x` stands for `q`, with an error of at most `n` times 2^-20, and `q` is at most `n` times 2^14: one count `n` for
both, which every operation raises by what it may add to either. -/
def Near (n : Nat) (q : ℚ) (x : F64) : Prop := Approx x q (n / 2 ^ 20) ∧ |q| ≤ n * 2 ^ 14

theorem Near.abs_val_le {n : Nat} {q : ℚ} {x : F64} (h : Near n q x) : |f64Val x| ≤ n * 2 ^ 15 := by
  obtain ⟨⟨-, herr⟩, hsize⟩ := h
  have hn : (0 : ℚ) ≤ n := Nat.cast_nonneg n
  linarith [abs_sub_abs_le_abs_sub (f64Val x) q]

theorem Near.neg {n : Nat} {q : ℚ} {x : F64} (h : Near n q x) : Near n (-q) (fneg x) := by
  obtain ⟨⟨hfin, herr⟩, hsize⟩ := h
  refine ⟨⟨by rwa [f64Finite_fneg], ?_⟩, by rwa [abs_neg]⟩
  rwa [f64Val_fneg, ← neg_sub', abs_neg]

theorem Near.add {m n : Nat} {p q : ℚ} {x y : F64} (hx : Near m p x) (hy : Near n q y) (h : m + n ≤ 1000) :
    Near (m + n + 1) (p + q) (fadd x y) := by
  have hm : (m : ℚ) + n ≤ 1000 := by exact_mod_cast h
  have hm0 : (0 : ℚ) ≤ m := Nat.cast_nonneg m
  have hn0 : (0 : ℚ) ≤ n := Nat.cast_nonneg n
  obtain ⟨hfin, hround⟩ := fadd_approx hx.1.1 hy.1.1 (by linarith [hx.abs_val_le]) (by linarith [hy.abs_val_le])
  obtain ⟨⟨-, hxerr⟩, hxsize⟩ := hx
  obtain ⟨⟨-, hyerr⟩, hysize⟩ := hy
  refine ⟨⟨hfin, ?_⟩, ?_⟩
  · have hsplit : f64Val (fadd x y) - (p + q) =
        f64Val (fadd x y) - (f64Val x + f64Val y) + ((f64Val x - p) + (f64Val y - q)) := by ring
    rw [hsplit]
    push_cast
    linarith [abs_add_le (f64Val (fadd x y) - (f64Val x + f64Val y)) ((f64Val x - p) + (f64Val y - q)),
      abs_add_le (f64Val x - p) (f64Val y - q)]
  · push_cast
    linarith [abs_add_le p q]

theorem Near.sub {m n : Nat} {p q : ℚ} {x y : F64} (hx : Near m p x) (hy : Near n q y) (h : m + n ≤ 1000) :
    Near (m + n + 1) (p - q) (fsub x y) := by
  rw [sub_eq_add_neg]
  exact hx.add hy.neg h

theorem fmul_comm (x y : F64) : fmul x y = fmul y x := by
  rw [fmul, fmul, Bool.xor_comm, Bool.or_comm, Bool.and_comm, Nat.mul_comm, Bool.or_comm (_ && _)]

/-- A literal of nine decimal places, within 2^-40. -/
theorem nano_approx {num : Nat} (h : num ≤ 1400000000) : Approx (nano num) (rotation num) (1 / 2 ^ 40) := by
  have hbetween : Between 1034 (num * 2 ^ 40 / 1000000000) (num * 2 ^ 40 / 1000000000 + 1) (nano num) :=
    f64Lit_between (p := 40) (by decide) (by decide) (by omega) (by omega) (by omega) (by omega)
  obtain ⟨hfin, hlo, hhi⟩ := (between_iff_val (k := 40) rfl).mp hbetween
  have hle : (num * 2 ^ 40 / 1000000000 : Int) * 1000000000 ≤ num * 2 ^ 40 := by omega
  have hlt : (num * 2 ^ 40 : Int) ≤ (num * 2 ^ 40 / 1000000000 : Int) * 1000000000 + 1000000000 := by omega
  generalize (num * 2 ^ 40 / 1000000000 : Int) = n at hlo hhi hle hlt
  qify at hle hlt
  push_cast at hhi
  refine ⟨hfin, ?_⟩
  rw [rotation, abs_le]
  constructor <;> linarith

theorem rotation_range {num : Nat} (h : num ≤ 1400000000) : 0 ≤ rotation num ∧ rotation num ≤ 7 / 5 := by
  have hnum : (num : ℚ) ≤ 1400000000 := by exact_mod_cast h
  have hnum0 : (0 : ℚ) ≤ num := Nat.cast_nonneg num
  rw [rotation]
  constructor <;> linarith

theorem Near.mul_nano {n num : Nat} {q : ℚ} {x : F64} (hx : Near n q x) (hnum : num ≤ 1400000000) (h : n ≤ 1000) :
    Near (2 * n + 1) (q * rotation num) (fmul x (nano num)) := by
  have hn : (n : ℚ) ≤ 1000 := by exact_mod_cast h
  have hn0 : (0 : ℚ) ≤ n := Nat.cast_nonneg n
  obtain ⟨hc0, hc⟩ := rotation_range hnum
  have hxsize := hx.abs_val_le
  obtain ⟨⟨hxfin, hxerr⟩, hqsize⟩ := hx
  obtain ⟨hcfin, hcerr⟩ := nano_approx hnum
  generalize rotation num = c at *
  have hC : |f64Val (nano num)| ≤ 2 := by linarith [abs_sub_abs_le_abs_sub (f64Val (nano num)) c, abs_of_nonneg hc0]
  have hprod : |f64Val x * f64Val (nano num)| ≤ n * 2 ^ 15 * 2 := by
    rw [abs_mul]
    exact mul_le_mul hxsize hC (abs_nonneg _) (by positivity)
  obtain ⟨hfin, hround⟩ := fmul_approx hxfin hcfin (by linarith)
  refine ⟨⟨hfin, ?_⟩, ?_⟩
  · have hconst : |f64Val x * (f64Val (nano num) - c)| ≤ n * 2 ^ 15 * (1 / 2 ^ 40) := by
      rw [abs_mul]
      exact mul_le_mul hxsize hcerr (abs_nonneg _) (by positivity)
    have hinput : |(f64Val x - q) * c| ≤ n / 2 ^ 20 * (7 / 5) := by
      rw [abs_mul, abs_of_nonneg hc0]
      exact mul_le_mul hxerr hc hc0 (by positivity)
    have hsplit : f64Val (fmul x (nano num)) - q * c = f64Val (fmul x (nano num)) - f64Val x * f64Val (nano num) +
        (f64Val x * (f64Val (nano num) - c) + (f64Val x - q) * c) := by ring
    rw [hsplit]
    push_cast
    linarith [abs_add_le (f64Val (fmul x (nano num)) - f64Val x * f64Val (nano num))
      (f64Val x * (f64Val (nano num) - c) + (f64Val x - q) * c),
      abs_add_le (f64Val x * (f64Val (nano num) - c)) ((f64Val x - q) * c)]
  · rw [abs_mul, abs_of_nonneg hc0]
    push_cast
    linarith [mul_le_mul hqsize hc hc0 (by positivity)]

theorem Near.nano_mul {n num : Nat} {q : ℚ} {x : F64} (hx : Near n q x) (hnum : num ≤ 1400000000) (h : n ≤ 1000) :
    Near (2 * n + 1) (rotation num * q) (fmul (nano num) x) := by
  rw [mul_comm (rotation num), fmul_comm]
  exact hx.mul_nano hnum h

theorem Near.mono {m n : Nat} {q : ℚ} {x : F64} (h : Near m q x) (hmn : m ≤ n) : Near n q x := by
  have hmn : (m : ℚ) ≤ n := by exact_mod_cast hmn
  obtain ⟨⟨hfin, herr⟩, hsize⟩ := h
  exact ⟨⟨hfin, by linarith⟩, by linarith⟩

/-- Every output of a pass: a sum adds the counts of its terms and one for its own rounding, a product with a constant
doubles the count at most and adds one. -/
theorem aanPass_near {x : Nat → F64} {q : Nat → ℚ} (h : ∀ k < 8, Near 1 (q k) (x k)) {k : Nat} (hk : k < 8) :
    Near 67 (exactPass q k) (pick (aanPass x) k 0#64) := by
  have sum (i j : Nat) (hi : i < 8) (hj : j < 8) := (h i hi).add (h j hj) (by decide)
  have difference (i j : Nat) (hi : i < 8) (hj : j < 8) := (h i hi).sub (h j hj) (by decide)
  have tmp0 := sum 0 7 (by decide) (by decide)
  have tmp1 := sum 1 6 (by decide) (by decide)
  have tmp2 := sum 2 5 (by decide) (by decide)
  have tmp3 := sum 3 4 (by decide) (by decide)
  have tmp4 := difference 3 4 (by decide) (by decide)
  have tmp5 := difference 2 5 (by decide) (by decide)
  have tmp6 := difference 1 6 (by decide) (by decide)
  have tmp7 := difference 0 7 (by decide) (by decide)
  have even10 := tmp0.add tmp3 (by decide)
  have even13 := tmp0.sub tmp3 (by decide)
  have even11 := tmp1.add tmp2 (by decide)
  have even12 := tmp1.sub tmp2 (by decide)
  have z1 := (even12.add even13 (by decide)).mul_nano (num := 707106781) (by decide) (by decide)
  have odd10 := tmp4.add tmp5 (by decide)
  have odd11 := tmp5.add tmp6 (by decide)
  have odd12 := tmp6.add tmp7 (by decide)
  have z5 := (odd10.sub odd12 (by decide)).mul_nano (num := 382683433) (by decide) (by decide)
  have z2 := (odd10.nano_mul (num := 541196100) (by decide) (by decide)).add z5 (by decide)
  have z4 := (odd12.nano_mul (num := 1306562965) (by decide) (by decide)).add z5 (by decide)
  have z3 := odd11.mul_nano (num := 707106781) (by decide) (by decide)
  have z11 := tmp7.add z3 (by decide)
  have z13 := tmp7.sub z3 (by decide)
  match k with
  | 0 => exact (even10.add even11 (by decide)).mono (by decide)
  | 1 => exact (z11.add z4 (by decide)).mono (by decide)
  | 2 => exact (even13.add z1 (by decide)).mono (by decide)
  | 3 => exact (z13.sub z2 (by decide)).mono (by decide)
  | 4 => exact (even10.sub even11 (by decide)).mono (by decide)
  | 5 => exact (z13.add z2 (by decide)).mono (by decide)
  | 6 => exact (even13.sub z1 (by decide)).mono (by decide)
  | 7 => exact (z11.sub z4 (by decide)).mono (by decide)

/-! ## The range of one pass -/

/-- AASF without rounding (42_quant_zigzag.md R195). -/
def exactAasf (k : Nat) : ℚ :=
  rotation (entry [1000000000, 1387039845, 1306562965, 1175875602, 1000000000, 785694958, 541196100, 275899379] k)

/-- Output 0 of a pass is the sum of the inputs. The others are 0 on equal inputs, and none exceeds AASF[k] times four
times the range of the inputs. -/
theorem exactPass_range {x : Nat → ℚ} {lo hi : ℚ} (h : ∀ k < 8, lo ≤ x k ∧ x k ≤ hi) :
    (8 * lo ≤ exactPass x 0 ∧ exactPass x 0 ≤ 8 * hi) ∧
      ∀ k, 0 < k → k < 8 → |exactPass x k| ≤ 4 * exactAasf k * (hi - lo) := by
  obtain ⟨l0, u0⟩ := h 0 (by decide)
  obtain ⟨l1, u1⟩ := h 1 (by decide)
  obtain ⟨l2, u2⟩ := h 2 (by decide)
  obtain ⟨l3, u3⟩ := h 3 (by decide)
  obtain ⟨l4, u4⟩ := h 4 (by decide)
  obtain ⟨l5, u5⟩ := h 5 (by decide)
  obtain ⟨l6, u6⟩ := h 6 (by decide)
  obtain ⟨l7, u7⟩ := h 7 (by decide)
  refine ⟨?_, fun k hpos hk => ?_⟩
  · simp only [exactPass, List.getD_cons_zero]
    constructor <;> linarith
  · rw [abs_le]
    interval_cases k
    all_goals
      simp only [exactPass, exactAasf, rotation, entry, List.getD_cons_succ, List.getD_cons_zero, Nat.cast_ofNat]
      constructor <;> linarith

end Sys2Proof.Machine
end

section
/-! PROOFS. The range of the forward DCT's entries (41_color_fdct.md R166) and of the entries they are scaled with
(42_quant_zigzag.md R196). -/

namespace Sys2Proof.Machine

/-! ## The range of the forward DCT (41_color_fdct.md R166) -/

/-- `x` is finite and lies between two rational numbers. -/
def Within (lo hi : ℚ) (x : F64) : Prop := f64Finite x = true ∧ lo ≤ f64Val x ∧ f64Val x ≤ hi

/-- The least value output `k` of a pass without roundings takes on inputs from `lo` to `hi`, or a lower one. -/
def passLow (k : Nat) (lo hi : ℚ) : ℚ := if k = 0 then 8 * lo else -(4 * exactAasf k * (hi - lo))

/-- The greatest value it takes, or a greater one. -/
def passHigh (k : Nat) (lo hi : ℚ) : ℚ := if k = 0 then 8 * hi else 4 * exactAasf k * (hi - lo)

/-- The error of one pass. -/
def passError : ℚ := 67 / 2 ^ 20

theorem aanPass_within {x : Nat → F64} {lo hi : ℚ} (h : ∀ k < 8, Within lo hi (x k)) (hlo : -2 ^ 14 ≤ lo)
    (hhi : hi ≤ 2 ^ 14) {k : Nat} (hk : k < 8) :
    Within (passLow k lo hi - passError) (passHigh k lo hi + passError) (pick (aanPass x) k 0#64) := by
  have hnear (j : Nat) (hj : j < 8) : Near 1 (f64Val (x j)) (x j) := by
    obtain ⟨hfin, hl, hh⟩ := h j hj
    refine ⟨⟨hfin, ?_⟩, ?_⟩
    · rw [sub_self, abs_zero]
      positivity
    · rw [abs_le]
      constructor <;> push_cast <;> linarith
  obtain ⟨⟨hfin, herr⟩, -⟩ := aanPass_near hnear hk
  obtain ⟨⟨hdcl, hdch⟩, hac⟩ := exactPass_range (x := fun j => f64Val (x j)) fun j hj => (h j hj).2
  obtain ⟨herrl, herrh⟩ := abs_le.mp herr
  push_cast at herrl herrh
  refine ⟨hfin, ?_⟩
  rw [passLow, passHigh, passError]
  by_cases h0 : k = 0
  · subst h0
    rw [if_pos rfl, if_pos rfl]
    constructor <;> linarith
  · obtain ⟨hl, hh⟩ := abs_le.mp (hac k (Nat.pos_of_ne_zero h0) hk)
    rw [if_neg h0, if_neg h0]
    constructor <;> linarith

theorem exactAasf_range {k : Nat} (hk : k < 8) : 27 / 100 ≤ exactAasf k ∧ exactAasf k ≤ 7 / 5 := by
  interval_cases k
  all_goals
    norm_num [exactAasf, rotation, entry]

theorem exactAasf_zero : exactAasf 0 = 1 := by
  norm_num [exactAasf, rotation, entry]

theorem passHigh_sub_passLow (k : Nat) (lo hi : ℚ) :
    passHigh k lo hi - passLow k lo hi = 8 * exactAasf k * (hi - lo) := by
  rw [passHigh, passLow]
  split
  case isTrue h0 =>
    rw [h0, exactAasf_zero]
    ring
  case isFalse => ring

theorem passRange_le {k : Nat} (hk : k < 8) {lo hi b : ℚ} (hlo : -b ≤ lo) (hle : lo ≤ hi) (hhi : hi ≤ b) :
    -(12 * b) ≤ passLow k lo hi ∧ passLow k lo hi ≤ passHigh k lo hi ∧ passHigh k lo hi ≤ 12 * b := by
  obtain ⟨hl, hu⟩ := exactAasf_range hk
  have hspread : 0 ≤ exactAasf k * (hi - lo) := mul_nonneg (by linarith) (by linarith)
  have hbound : exactAasf k * (hi - lo) ≤ 7 / 5 * (2 * b) := mul_le_mul hu (by linarith) (by linarith) (by norm_num)
  rw [passLow, passHigh]
  split
  case isTrue => exact ⟨by linarith, by linarith, by linarith⟩
  case isFalse => exact ⟨by linarith, by linarith, by linarith⟩

/-- Every entry of the forward DCT of samples between `lo` and `hi`, and a closer bound for all but the DC value. -/
theorem forwardDct_range {d : Vector F64 64} {lo hi : ℚ} (h : ∀ i < 64, Within lo hi (pick d i 0#64))
    (hlo : -129 ≤ lo) (hle : lo ≤ hi) (hhi : hi ≤ 129) {i : Nat} (hi64 : i < 64) :
    f64Finite (pick (forwardDct d) i 0#64) = true ∧ |f64Val (pick (forwardDct d) i 0#64)| ≤ 2 ^ 15 ∧
      (i ≠ 0 → |f64Val (pick (forwardDct d) i 0#64)| ≤
        32 * (exactAasf (i / 8) * exactAasf (i % 8)) * (hi - lo) + 1 / 2 ^ 10) := by
  have hr : i / 8 < 8 := by omega
  have hc : i % 8 < 8 := by omega
  have hac : i ≠ 0 → i / 8 = 0 → i % 8 ≠ 0 := by omega
  rw [pick_forwardDct hi64]
  generalize i / 8 = r at *
  generalize i % 8 = c at *
  obtain ⟨hl, hm, hu⟩ := passRange_le hc hlo hle hhi
  have hspread := passHigh_sub_passLow c lo hi
  have herr : passError = 67 / 2 ^ 20 := rfl
  have hrow (k : Nat) (hk : k < 8) := aanPass_within (fun j hj => h (8 * k + j) (by omega)) (by linarith)
    (by linarith) hc
  obtain ⟨hfin, hlow, hhigh⟩ := aanPass_within hrow (by linarith) (by linarith) hr
  obtain ⟨hl', -, hu'⟩ := passRange_le hr (b := 1550) (lo := passLow c lo hi - passError)
    (hi := passHigh c lo hi + passError) (by linarith) (by linarith) (by linarith)
  refine ⟨hfin, abs_le.mpr ⟨by linarith, by linarith⟩, fun hne => abs_le.mpr ?_⟩
  obtain ⟨-, har⟩ := exactAasf_range hr
  by_cases hr0 : r = 0
  · have hc0 := hac hne hr0
    subst hr0
    rw [passLow, if_pos rfl, passLow, if_neg hc0] at hlow
    rw [passHigh, if_pos rfl, passHigh, if_neg hc0] at hhigh
    rw [exactAasf_zero]
    constructor <;> linarith
  · have hcol : 4 * exactAasf r * (passHigh c lo hi + passError - (passLow c lo hi - passError)) =
        32 * (exactAasf r * exactAasf c) * (hi - lo) + 8 * exactAasf r * passError := by
      linear_combination 4 * exactAasf r * hspread
    rw [herr] at hcol hlow hhigh
    rw [passLow, if_neg hr0, hcol] at hlow
    rw [passHigh, if_neg hr0, hcol] at hhigh
    constructor <;> linarith

/-! ## The scaling entries (42_quant_zigzag.md R195, R196) -/

theorem aasf_approx {k : Nat} (hk : k < 8) : Approx (aasf k) (exactAasf k) (1 / 2 ^ 40) := by
  have hentry : entry [1000000000, 1387039845, 1306562965, 1175875602, 1000000000, 785694958, 541196100, 275899379] k ≤
      1400000000 := by
    revert k
    decide
  exact nano_approx hentry

/-- A product of factors that are not negative lies between the products of their bounds, but for the rounding. -/
theorem fmul_within {a b c d : ℚ} {x y : F64} (hx : Within a b x) (hy : Within c d y) (ha : 0 ≤ a) (hc : 0 ≤ c)
    (h : b * d ≤ 2 ^ 31) : Within (a * c - 1 / 2 ^ 20) (b * d + 1 / 2 ^ 20) (fmul x y) := by
  obtain ⟨hxfin, hxl, hxh⟩ := hx
  obtain ⟨hyfin, hyl, hyh⟩ := hy
  have hlo : a * c ≤ f64Val x * f64Val y := mul_le_mul hxl hyl hc (by linarith)
  have hhi : f64Val x * f64Val y ≤ b * d := mul_le_mul hxh hyh (by linarith) (by linarith)
  have h0 : 0 ≤ a * c := mul_nonneg ha hc
  obtain ⟨hfin, herr⟩ := fmul_approx hxfin hyfin (abs_le.mpr ⟨by linarith, by linarith⟩)
  obtain ⟨hl, hh⟩ := abs_le.mp herr
  exact ⟨hfin, by linarith, by linarith⟩

theorem f64OfNat_within {n : Nat} (h : n < 2 ^ 53) : Within n n (f64OfNat n) := by
  simpa [between_iff_val (k := 0) rfl, Within] using f64OfNat_between h

/-- A factor AASF, from below to within 2^-20. -/
theorem aasf_within {k : Nat} (hk : k < 8) : Within (exactAasf k - 1 / 2 ^ 20) (3 / 2) (aasf k) := by
  obtain ⟨hfin, herr⟩ := aasf_approx hk
  obtain ⟨hl, hh⟩ := abs_le.mp herr
  obtain ⟨-, hu⟩ := exactAasf_range hk
  exact ⟨hfin, by linarith, by linarith⟩

/-- The divisor of a scaling entry is not below `8 * AASF[r] * AASF[c]`, but for the roundings. -/
theorem scaleDivisor_ge {q r c : Nat} (hq : 1 ≤ q) (hq255 : q ≤ 255) (hr : r < 8) (hc : c < 8) :
    f64Finite (fmul (fmul (fmul (f64OfNat q) (aasf r)) (aasf c)) (f64OfNat 8)) = true ∧
      8 * (exactAasf r * exactAasf c) * (1 - 1 / 2 ^ 12) ≤
        f64Val (fmul (fmul (fmul (f64OfNat q) (aasf r)) (aasf c)) (f64OfNat 8)) := by
  obtain ⟨hal, hau⟩ := exactAasf_range hr
  obtain ⟨hbl, hbu⟩ := exactAasf_range hc
  have hentry : Within 1 255 (f64OfNat q) := by
    obtain ⟨hfin, hl, hh⟩ := f64OfNat_within (n := q) (by omega)
    have hl1 : (1 : ℚ) ≤ q := by exact_mod_cast hq
    have hh255 : (q : ℚ) ≤ 255 := by exact_mod_cast hq255
    exact ⟨hfin, by linarith, by linarith⟩
  have hrow := fmul_within hentry (aasf_within hr) (by norm_num) (by linarith) (by norm_num)
  have hcol := fmul_within hrow (aasf_within hc) (by linarith) (by linarith) (by norm_num)
  have hpos : 0 ≤ (1 * (exactAasf r - 1 / 2 ^ 20) - 1 / 2 ^ 20) * (exactAasf c - 1 / 2 ^ 20) - 1 / 2 ^ 20 := by
    nlinarith
  obtain ⟨hfin, hl, -⟩ := fmul_within hcol (f64OfNat_within (n := 8) (by decide)) hpos (by norm_num) (by norm_num)
  push_cast at hl
  exact ⟨hfin, by nlinarith⟩

/-- The reciprocal of a divisor that is not below `p`, but for the roundings, is at most that of `p`. -/
theorem fdiv_one_mul_le {p : ℚ} {y : F64} (hy : f64Finite y = true) (hp : 1 / 2 ≤ p) (hp16 : p ≤ 16)
    (h : p * (1 - 1 / 2 ^ 12) ≤ f64Val y) : f64Val (fdiv (f64OfNat 1) y) * p ≤ 1 + 1 / 2 ^ 10 := by
  have hy0 : 1 / 4 ≤ f64Val y := by linarith
  obtain ⟨hofin, hol, hoh⟩ := f64OfNat_within (n := 1) (by decide)
  have hone : f64Val (f64OfNat 1) = 1 := by
    push_cast at hol hoh
    linarith
  have hquot0 : 0 < 1 / f64Val y := one_div_pos.mpr (by linarith)
  have hquot : 1 / f64Val y ≤ 4 := by
    rw [div_le_iff₀ (by linarith)]
    linarith
  obtain ⟨-, herr⟩ := fdiv_approx hofin hy (by linarith) (by rw [hone, abs_of_pos hquot0]; linarith)
  rw [hone] at herr
  have hfd : f64Val (fdiv (f64OfNat 1) y) ≤ 1 / f64Val y + 1 / 2 ^ 20 := by linarith [(abs_le.mp herr).2]
  have hexact : 1 / f64Val y * p ≤ 1 + 1 / 2 ^ 11 := by
    rw [one_div_mul_eq_div, div_le_iff₀ (by linarith)]
    linarith
  calc f64Val (fdiv (f64OfNat 1) y) * p ≤ (1 / f64Val y + 1 / 2 ^ 20) * p :=
        mul_le_mul_of_nonneg_right hfd (by linarith)
    _ ≤ 1 + 1 / 2 ^ 10 := by linarith

/-- With a quantizer entry from 1 on, a scaling entry is at most the reciprocal of `8 * AASF[r] * AASF[c]`, but for the
roundings. -/
theorem scaleTable_le {qt : Vector Byte 64} {i : Nat} (hi : i < 64)
    (hq : 1 ≤ (qt.toList.getD (entry zz i) 0#8).toNat) :
    f64Val (pick (scaleTable qt) i 0#64) * (8 * (exactAasf (i / 8) * exactAasf (i % 8))) ≤ 1 + 1 / 2 ^ 10 := by
  have hr : i / 8 < 8 := by omega
  have hc : i % 8 < 8 := by omega
  obtain ⟨hal, hau⟩ := exactAasf_range hr
  obtain ⟨hbl, hbu⟩ := exactAasf_range hc
  obtain ⟨hfin, hge⟩ := scaleDivisor_ge hq (by omega) hr hc
  rw [pick_scaleTable qt hi]
  exact fdiv_one_mul_le hfin (by nlinarith) (by nlinarith) hge

end Sys2Proof.Machine
end

section
/-! PROOFS. Every admitted access completes (60_exceptions.md R316): the AC values of any image fit the tables
(41_color_fdct.md R170), so BLOCK meets no fault point, and nothing else can. -/

namespace Sys2Proof.Machine

/-! ## The AC values of a data unit (42_quant_zigzag.md R197, R198) -/

/-- A value up to `n` in magnitude rounds to such an integer. -/
theorem natAbs_roundHalfAway_le {p : F64} {n : Nat} (h : |f64Val p| ≤ n) : (roundHalfAway p).natAbs ≤ n := by
  have hone : (0 : ℚ) < f64One := Nat.cast_pos.mpr f64One_pos
  obtain ⟨hlo, hhi⟩ := abs_le.mp h
  rw [f64Val, le_div_iff₀ hone] at hlo
  rw [f64Val, div_le_iff₀ hone] at hhi
  have hl : -(n : Int) * f64One ≤ f64Units p := by exact_mod_cast hlo
  have hh : f64Units p ≤ (n : Int) * f64One := by exact_mod_cast hhi
  have hpos : (0 : Int) < f64One := Int.natCast_pos.mpr f64One_pos
  have hbelow := le_roundHalfAway (p := p) (k := n) (by push_cast; linarith)
  have habove := roundHalfAway_le (p := p) (k := n) (by push_cast; linarith)
  omega

/-- Where every product is finite, the transform answers, and entry k of DU is the rounded product of index UNZZ[k]. -/
theorem transform_of_finite {fd samples : Vector F64 64}
    (h : ∀ i < 64, f64Finite (fmul (pick (forwardDct samples) i 0#64) (pick fd i 0#64)) = true) :
    ∃ du, transform fd samples = .ok du ∧ ∀ k < 64, pick du k 0 =
      roundHalfAway (fmul (pick (forwardDct samples) (entry unzz k) 0#64) (pick fd (entry unzz k) 0#64)) := by
  have hall : (products fd (forwardDct samples)).toList.all f64Finite = true := by
    rw [products, toList_tabulate, List.all_map]
    exact List.all_eq_true.mpr fun i hi => h i (List.mem_range.mp hi)
  refine ⟨_, transform_ok (if_pos hall), fun k hk => ?_⟩
  obtain ⟨hunzz, -⟩ := zz_unzz hk
  rw [reorder, pick_tabulate hk, pick_tabulate hunzz, products, pick_tabulate hunzz]

/-- Every AC value is small enough for the tables (43_entropy.md R222). -/
def AcBounded (du : Vector Int 64) : Prop := ∀ k, 1 ≤ k → k < 64 → (pick du k 0).natAbs ≤ 1023

/-- The product of an entry of the forward DCT and its scaling entry, from samples over a range of 255 at most, but for
the roundings: the factors AASF cancel. -/
theorem product_range {qt : Vector Byte 64} {samples : Vector F64 64} {lo hi : ℚ}
    (hqt : ∀ k < 64, 1 ≤ (qt.toList.getD k 0#8).toNat) (h : ∀ i < 64, Within lo hi (pick samples i 0#64))
    (hlo : -129 ≤ lo) (hle : lo ≤ hi) (hhi : hi ≤ 129) (hrange : hi - lo ≤ 255 + 1 / 2 ^ 8) {i : Nat} (hi64 : i < 64) :
    f64Finite (fmul (pick (forwardDct samples) i 0#64) (pick (scaleTable qt) i 0#64)) = true ∧
      (i ≠ 0 → |f64Val (fmul (pick (forwardDct samples) i 0#64) (pick (scaleTable qt) i 0#64))| ≤ 1023) := by
  have hq := hqt _ (unzz_zz hi64).1
  obtain ⟨hdfin, hdb, hdac⟩ := forwardDct_range h hlo hle hhi hi64
  obtain ⟨hsfin, hsl, hsh⟩ := (between_iff_val (k := 20) rfl).mp (scaleTable_between hi64 hq)
  have hscale := scaleTable_le hi64 hq
  generalize pick (forwardDct samples) i 0#64 = d at *
  generalize pick (scaleTable qt) i 0#64 = f at *
  push_cast at hsl hsh
  have hs0 : 0 ≤ f64Val f := by linarith
  have hprod : |f64Val d * f64Val f| = |f64Val d| * f64Val f := by rw [abs_mul, abs_of_nonneg hs0]
  have hcoarse : |f64Val d| * f64Val f ≤ 2 ^ 15 * 2 := mul_le_mul hdb (by linarith) hs0 (by positivity)
  obtain ⟨hfin, herr⟩ := fmul_approx hdfin hsfin (by linarith)
  refine ⟨hfin, fun hne => ?_⟩
  generalize exactAasf (i / 8) * exactAasf (i % 8) = a at hdac hscale
  have hfine : |f64Val d| * f64Val f ≤ 1022 :=
    calc |f64Val d| * f64Val f ≤ (32 * a * (hi - lo) + 1 / 2 ^ 10) * f64Val f :=
          mul_le_mul_of_nonneg_right (hdac hne) hs0
      _ = f64Val f * (8 * a) * (4 * (hi - lo)) + 1 / 2 ^ 10 * f64Val f := by ring
      _ ≤ (1 + 1 / 2 ^ 10) * (4 * (hi - lo)) + 1 / 2 ^ 10 * 2 :=
          add_le_add (mul_le_mul_of_nonneg_right hscale (by linarith)) (by linarith)
      _ ≤ 1022 := by linarith
  linarith [abs_sub_abs_le_abs_sub (f64Val (fmul d f)) (f64Val d * f64Val f)]

theorem transform_total {qt : Vector Byte 64} {samples : Vector F64 64} {lo hi : ℚ}
    (hqt : ∀ k < 64, 1 ≤ (qt.toList.getD k 0#8).toNat) (h : ∀ i < 64, Within lo hi (pick samples i 0#64))
    (hlo : -129 ≤ lo) (hle : lo ≤ hi) (hhi : hi ≤ 129) (hrange : hi - lo ≤ 255 + 1 / 2 ^ 8) :
    ∃ du, transform (scaleTable qt) samples = .ok du ∧ AcBounded du := by
  have hprod {i : Nat} (hi64 : i < 64) := product_range hqt h hlo hle hhi hrange hi64
  obtain ⟨du, hdu, hentry⟩ := transform_of_finite fun i hi64 => (hprod hi64).1
  refine ⟨du, hdu, fun k hk0 hk => ?_⟩
  obtain ⟨hunzz, hzz⟩ := zz_unzz hk
  have hne : entry unzz k ≠ 0 := fun h0 => by
    rw [h0] at hzz
    have hzero : entry zz 0 = 0 := rfl
    omega
  rw [hentry k hk]
  exact natAbs_roundHalfAway_le (n := 1023) (by exact_mod_cast (hprod hunzz).2 hne)

/-! ## BLOCK answers -/

theorem blockUnits_total {s : State} {words : Vector Word 64} (ht : tablesOfQuality s)
    (hfetch : fetchWords s = .ok words) :
    ∃ y cb cr, blockUnits s = .ok (y, cb, cr) ∧ AcBounded y ∧ AcBounded cb ∧ AcBounded cr := by
  obtain ⟨hqtY, hqtC, hfdY, hfdC⟩ := ht
  have hposY (k : Nat) (hk : k < 64) : 1 ≤ (s.qtY.toList.getD k 0#8).toNat := by
    rw [hqtY]
    exact quantTable_entry_pos _ _ hk
  have hposC (k : Nat) (hk : k < 64) : 1 ≤ (s.qtC.toList.getD k 0#8).toNat := by
    rw [hqtC]
    exact quantTable_entry_pos _ _ hk
  have hsample {conv : Word → F64} {lo hi : Int} (hconv : ∀ p, Between 1054 lo hi (conv p)) (i : Nat) (hi64 : i < 64) :
      Within (lo / 2 ^ 20) (hi / 2 ^ 20) (pick (sampleBuffer conv words) i 0#64) := by
    rw [sampleBuffer, pick_tabulate hi64, Within, div_le_iff₀ (by positivity), le_div_iff₀ (by positivity)]
    exact (between_iff_val rfl).mp (hconv _)
  obtain ⟨y, hy, hyac⟩ := transform_total hposY (hsample lumaOf_between) (by norm_num) (by norm_num) (by norm_num)
    (by norm_num)
  obtain ⟨cb, hcb, hcbac⟩ := transform_total hposC (hsample cbOf_between) (by norm_num) (by norm_num) (by norm_num)
    (by norm_num)
  obtain ⟨cr, hcr, hcrac⟩ := transform_total hposC (hsample crOf_between) (by norm_num) (by norm_num) (by norm_num)
    (by norm_num)
  rw [← hfdY] at hy
  rw [← hfdC] at hcb hcr
  exact ⟨y, cb, cr, blockUnits_ok hfetch hy hcb hcr, hyac, hcbac, hcrac⟩

/-- A data unit whose DC value lies in the predictor's own bounds, with AC values in theirs. -/
theorem AcBounded.codable {du : Vector Int 64} (h : AcBounded du) {pred lo hi : Int} (hpred : lo ≤ pred ∧ pred ≤ hi)
    (hdc : lo ≤ pick du 0 0 ∧ pick du 0 0 ≤ hi) (hrange : hi - lo ≤ 2047) : codable pred du :=
  ⟨by omega, h⟩

/-- With the cursor in an image that fits the pixel RAM, the MCU at the cursor is coded. -/
theorem encodeBlock_completes {s : State} (ht : tablesOfQuality s) (hp : predictorsInRange s)
    (hfit : s.width.toNat * s.height.toNat ≤ s.par.maxPixels) (hx : s.curX.toNat < s.width.toNat)
    (hy : s.curY.toNat < s.height.toNat) : ∃ t, encodeBlock s = .next t := by
  obtain ⟨y, cb, cr, hunits, hyac, hcbac, hcrac⟩ :=
    blockUnits_total ht (fetchWords_ok fun i _ => (sampleIndex_lt hx hy i).trans_le hfit)
  obtain ⟨hpy, hpcb, hpcr⟩ := hp
  obtain ⟨hydc, hcbdc, hcrdc⟩ := blockUnits_dc_range ht hunits
  obtain ⟨w, hw⟩ := codeUnits_total (hyac.codable hpy hydc (by decide)) (hcbac.codable hpcb hcbdc (by decide))
    (hcrac.codable hpcr hcrdc (by decide))
  exact ⟨_, encodeBlock_ok hunits hw⟩

theorem execBlock_completes {s : State} (hinv : Inv s) (hp : predictorsInRange s) : ∃ t, execBlock s = .next t := by
  cases hr : s.running with
  | false => exact ⟨_, if_pos hr⟩
  | true =>
    obtain ⟨hfit, -, -, hpos, -⟩ := hinv.session hr
    cases hc : s.consumed with
    | true => exact ⟨_, by rw [execBlock, if_neg (by simp [hr]), if_pos hc, raiseUsageError]⟩
    | false =>
      obtain ⟨hx, hy, -⟩ := hpos hc
      rw [execBlock_encodes hr hc hx hy]
      exact encodeBlock_completes hinv.tables hp hfit hx hy

/-! ## Every instruction answers -/

theorem execStart_completes (s : State) : ∃ t, execStart s = .next t := by
  unfold execStart
  split
  · exact ⟨_, rfl⟩
  split
  · exact ⟨_, rfl⟩
  split <;> exact ⟨_, rfl⟩

theorem execTail_completes (s : State) : ∃ t, execTail s = .next t := by
  obtain ⟨w, hw⟩ := padToByte_total s.par.maxOut s.par.tailPad s.wr
  unfold execTail
  rw [hw]
  split
  · exact ⟨_, rfl⟩
  split <;> exact ⟨_, rfl⟩

theorem execWrPixData_completes (s : State) (v : Word) : ∃ t, execWrPixData v s = .next t := by
  unfold execWrPixData
  split
  · exact ⟨_, rfl⟩
  split <;> exact ⟨_, rfl⟩

theorem writeWhileIdle_completes (s : State) (u : State) : ∃ t, writeWhileIdle s u = .next t := by
  unfold writeWhileIdle
  split <;> exact ⟨_, rfl⟩

/-- Every instruction answers a next state: BLOCK by the invariant, the others in every state. -/
theorem exec_completes {s : State} (hinv : Inv s) (hp : predictorsInRange s) (i : Instr) : ∃ t, exec i s = .next t := by
  obtain ⟨j, hj, hij⟩ := exec_eq_wellFormed i s
  rw [hij]
  cases j
  case setQuality imm =>
    rw [exec, execSetQuality]
    split <;> exact ⟨_, rfl⟩
  case start => exact execStart_completes s
  case block => exact execBlock_completes hinv hp
  case tail => exact execTail_completes s
  case stop =>
    rw [exec, execStop]
    split <;> exact ⟨_, rfl⟩
  case dispose =>
    rw [exec, execDispose]
    split <;> exact ⟨_, rfl⟩
  case wrCmd w => exact ⟨_, execWrCmd_illegal (by simpa [WellFormed] using hj) s⟩
  case wrWidth => exact writeWhileIdle_completes s _
  case wrHeight => exact writeWhileIdle_completes s _
  case wrPixAddr => exact writeWhileIdle_completes s _
  case wrPixData v => exact execWrPixData_completes s v
  case rdOutData =>
    rw [exec, execRdOutData]
    split <;> exact ⟨_, rfl⟩
  all_goals exact ⟨_, rfl⟩

/-- Settles O16: an admitted access decodes to an instruction, a reserved read or an ignored write, and each answers. -/
theorem everyAdmittedAccessCompletes : Obligations.EveryAdmittedAccessCompletes := by
  intro s a hinv hp ha
  have hstep : step (place (.access a) s) = serve (.access a) s := rfl
  rw [hstep, serve]
  cases hd : decode a with
  | instr i => exact exec_completes hinv hp i
  | reservedRead => exact ⟨_, rfl⟩
  | ignoredWrite => exact ⟨_, rfl⟩
  | reject r => exact absurd hd (decode_ne_reject ha r)

end Sys2Proof.Machine
end

section
/-! PROOFS. The usage errors and the interrupt output (60_exceptions.md R313, R314, R318). -/

namespace Sys2Proof.Machine

/-! ## The usage errors (60_exceptions.md R314) -/

/-- Settles O33: in each command the checks in their order, each ending the access with its error. -/
theorem usageErrorsChangeOnlyTheErrorRecord : Obligations.UsageErrorsChangeOnlyTheErrorRecord := by
  intro s v
  obtain ⟨hpixRunning, hpixRange, -⟩ := pixDataStoresOnePixel s v
  refine ⟨fun hr => ?_, fun hr hzero => ?_, fun hr hw hh hlarge => ?_, fun hr => ⟨?_, ?_⟩, fun hr hc => ?_,
    fun hr hc => ?_, fun hillegal => execWrCmd_illegal hillegal s, fun hr i hi => ?_, hpixRange⟩
  · rw [exec, execStart, if_pos hr, raiseUsageError_eq, errValue]
  · rw [exec, execStart, if_neg (by simp [hr]), if_pos hzero, raiseUsageError_eq, errValue]
  · rw [exec, execStart, if_neg (by simp [hr]), if_neg (by simp [hw, hh]), if_pos hlarge, raiseUsageError_eq, errValue]
  · rw [exec, execBlock, if_pos hr, raiseUsageError_eq, errValue]
  · rw [exec, execTail, if_pos hr, raiseUsageError_eq, errValue]
  · rw [exec, execBlock, if_neg (by simp [hr]), if_pos hc, raiseUsageError_eq, errValue]
  · rw [exec, execTail, if_neg (by simp [hr]), if_pos hc, raiseUsageError_eq, errValue]
  · have hsizes := (sizeAndAddressRegisters s v).1 hr
    simp only [List.mem_cons, List.not_mem_nil, or_false] at hi
    obtain rfl | rfl | rfl | rfl := hi
    · exact hsizes _ (by simp)
    · exact hsizes _ (by simp)
    · exact hsizes _ (by simp)
    · exact hpixRunning hr

/-! ## The interrupt output (60_exceptions.md R318) -/

theorem irqOut_iff (s : State) : irqOut s = true ↔
    (s.doneIp = true ∧ s.irqEn.getLsbD 0 = true) ∨ (s.wr.err = true ∧ s.irqEn.getLsbD 1 = true) := by
  simp [irqOut]

/-- Settles O38: IRQ_EN takes the two low bits of the value written, which mask IRQ alone. -/
theorem interruptOutput : Obligations.InterruptOutput := by
  intro s
  refine ⟨irqOut_iff s, fun t h => ?_, fun t h => ?_⟩
  · obtain rfl := next_inj.mp h
    rw [irqOut_iff]
    simp
  · obtain rfl := next_inj.mp h
    rw [← Bool.not_eq_true, irqOut_iff]
    simp

end Sys2Proof.Machine
end

section
/-! PROOFS. The first error stays until it is cleared (60_exceptions.md R312, R320). -/

namespace Sys2Proof.Machine

/-! ## What keeps the first error (60_exceptions.md R312) -/

/-- The error record holds the error that the record of `w` held, if any. -/
def KeepsError (w u : Writer) : Prop :=
  w.err = true → u.err = true ∧ u.errCode = w.errCode ∧ (w.errMulti = true → u.errMulti = true)

theorem KeepsError.refl (w : Writer) : KeepsError w w := fun herr => ⟨herr, rfl, id⟩

theorem recordError_keepsError (c : ErrCode) {w u : Writer} (h : KeepsError w u) : KeepsError w (recordError c u) := by
  intro herr
  obtain ⟨hset, hcode, -⟩ := h herr
  rw [recordError, if_neg (by simp [hset])]
  exact ⟨hset, hcode, fun _ => rfl⟩

theorem outAppend_keepsError (cap : Nat) {w : Writer} (b : Byte) (u : Writer) (h : KeepsError w u) :
    KeepsError w (outAppend cap b u) := by
  rcases outAppend_cases cap b u with ⟨-, e⟩ | ⟨-, -, e⟩ | ⟨-, -, e⟩ <;> rw [e]
  · exact h
  · exact recordError_keepsError .outOverflow h
  · exact h

theorem sending_keepsError (cap : Nat) (w : Writer) : keptBySending cap (KeepsError w) :=
  keptBySending_of_outAppend (outAppend_keepsError cap) fun _ _ _ h => h

section
variable {s t : State}

theorem refuseWith_keepsError (c : ErrCode) (s : State) : KeepsError s.wr (refuseWith c s).wr :=
  recordError_keepsError c (.refl s.wr)

theorem readValue_keepsError {v : Word} (h : readValue v s = .next t) : KeepsError s.wr t.wr :=
  next_inj.mp h ▸ .refl s.wr

theorem writeWhileIdle_keepsError {u : State} (h : writeWhileIdle s u = .next t) (hu : KeepsError s.wr u.wr) :
    KeepsError s.wr t.wr := by
  obtain ⟨-, rfl⟩ | ⟨-, rfl⟩ := writeWhileIdle_next h
  · exact refuseWith_keepsError _ s
  · exact hu

theorem execSetQuality_keepsError {imm : BitVec 16} (h : execSetQuality imm s = .next t) : KeepsError s.wr t.wr := by
  obtain ⟨-, rfl⟩ | ⟨-, rfl⟩ := execSetQuality_next h
  · exact .refl s.wr
  · exact .refl s.wr

theorem execStart_keepsError (h : execStart s = .next t) : KeepsError s.wr t.wr := by
  obtain ⟨-, rfl⟩ | ⟨-, -, rfl⟩ | ⟨-, -, rfl⟩ | ⟨-, -, -, -, rfl⟩ := execStart_next h
  · exact refuseWith_keepsError _ s
  · exact refuseWith_keepsError _ s
  · exact refuseWith_keepsError _ s
  · have hopen : KeepsError s.wr (openSession s).wr := .refl s.wr
    exact emitRaws_keeps (outAppend_keepsError _) _ hopen

theorem execBlock_keepsError (h : execBlock s = .next t) : KeepsError s.wr t.wr := by
  obtain ⟨-, rfl⟩ | ⟨-, -, rfl⟩ | ⟨-, -, -, y, cb, cr, w, -, hw, rfl⟩ := execBlock_next h
  · exact refuseWith_keepsError _ s
  · exact refuseWith_keepsError _ s
  · exact codeUnits_keeps (sending_keepsError _ s.wr) hw (.refl s.wr)

theorem execTail_keepsError (h : execTail s = .next t) : KeepsError s.wr t.wr := by
  obtain ⟨-, rfl⟩ | ⟨-, -, rfl⟩ | ⟨-, -, w, hw, rfl⟩ := execTail_next h
  · exact refuseWith_keepsError _ s
  · exact refuseWith_keepsError _ s
  · rw [closeSession_wr]
    exact emitRaws_keeps (outAppend_keepsError _) _ (padToByte_keeps (sending_keepsError _ s.wr) hw (.refl s.wr))

theorem execStop_keepsError (h : execStop s = .next t) : KeepsError s.wr t.wr := by
  obtain ⟨-, rfl⟩ | ⟨-, rfl⟩ := execStop_next h
  · exact .refl t.wr
  · rw [applyPending_wr]
    exact .refl s.wr

theorem execDispose_keepsError (h : execDispose s = .next t) : KeepsError s.wr t.wr := by
  obtain ⟨-, rfl⟩ | ⟨-, rfl⟩ := execDispose_next h
  · exact .refl t.wr
  · exact .refl s.wr

theorem execWrCmd_keepsError {w : Word} (hw : WellFormed (.wrCmd w) = true) (h : execWrCmd w s = .next t) :
    KeepsError s.wr t.wr := by
  rw [execWrCmd_illegal (by simpa [WellFormed] using hw)] at h
  exact next_inj.mp h ▸ refuseWith_eq .illegalCmd s ▸ refuseWith_keepsError _ s

theorem execWrPixData_keepsError {v : Word} (h : execWrPixData v s = .next t) : KeepsError s.wr t.wr := by
  obtain ⟨-, rfl⟩ | ⟨-, -, rfl⟩ | ⟨-, -, rfl⟩ := execWrPixData_next h
  · exact refuseWith_keepsError _ s
  · exact refuseWith_keepsError _ s
  · exact .refl s.wr

theorem execRdOutData_keepsError (h : execRdOutData s = .next t) : KeepsError s.wr t.wr := by
  obtain ⟨-, rfl⟩ | ⟨-, -, rfl⟩ := execRdOutData_next h
  · exact .refl s.wr
  · exact .refl s.wr

/-- A write to STATUS clears the error record by bit 8, and keeps it otherwise (40_commands.md R135). -/
theorem execWrStatus_error {v : Word} (h : execWrStatus v s = .next t) :
    KeepsError s.wr t.wr ∨ v.getLsbD 8 = true ∧ t.wr.err = false ∧ t.wr.errCode = 0#8 ∧ t.wr.errMulti = false := by
  obtain rfl := next_inj.mp ((statusWriteClears s v).symm.trans h)
  cases hbit : v.getLsbD 8 with
  | true => exact .inr ⟨rfl, by simp, by simp, by simp⟩
  | false => exact .inl fun herr => ⟨by simpa using herr, by simp, fun hmulti => by simpa using hmulti⟩

/-- Every well-formed instruction but a write to STATUS with bit 8 set, which clears the error record. -/
theorem exec_error {i : Instr} (hi : WellFormed i = true) (h : exec i s = .next t) :
    KeepsError s.wr t.wr ∨ ∃ v : Word, i = .wrStatus v ∧ v.getLsbD 8 = true ∧
      t.wr.err = false ∧ t.wr.errCode = 0#8 ∧ t.wr.errMulti = false := by
  cases i
  case wrStatus v => exact (execWrStatus_error h).imp_right fun hclear => ⟨v, rfl, hclear⟩
  all_goals left
  case nop => exact next_inj.mp h ▸ .refl s.wr
  case setQuality => exact execSetQuality_keepsError h
  case start => exact execStart_keepsError h
  case block => exact execBlock_keepsError h
  case tail => exact execTail_keepsError h
  case stop => exact execStop_keepsError h
  case dispose => exact execDispose_keepsError h
  case wrCmd => exact execWrCmd_keepsError hi h
  case wrIrqEn => exact next_inj.mp h ▸ .refl s.wr
  case wrOutAddr => exact next_inj.mp h ▸ .refl s.wr
  case wrWidth => exact writeWhileIdle_keepsError h (.refl s.wr)
  case wrHeight => exact writeWhileIdle_keepsError h (.refl s.wr)
  case wrPixAddr => exact writeWhileIdle_keepsError h (.refl s.wr)
  case wrPixData => exact execWrPixData_keepsError h
  case rdOutData => exact execRdOutData_keepsError h
  all_goals exact readValue_keepsError h

end

/-- An access that decodes to a write of STATUS is that write. -/
theorem eq_writeAt_of_decode_wrStatus {a : Access} {v : Word} (h : decode a = .instr (.wrStatus v)) :
    a = writeAt 0x014#12 v := by
  obtain ⟨-, henc⟩ := encodeInvertsDecode a _ h
  have hkind : a.kind ≠ .read := fun hread => by
    rw [if_pos hread] at henc
    exact absurd ((congrArg Access.kind henc).trans hread) (by simp [encode, writeAt])
  rw [if_neg hkind] at henc
  exact henc.symm

/-- Settles O21: by the cases of a step, and for an access by its instruction. -/
theorem firstErrorStaysUntilCleared : Obligations.FirstErrorStaysUntilCleared := by
  intro s t h herr
  obtain ⟨-, rfl⟩ | ⟨e, rest, hcons, ⟨rfl, -⟩ | ⟨a, rfl, ⟨i, hdec, hexec⟩ | ⟨-, rfl⟩ | ⟨-, rfl⟩⟩⟩ := step_next_cases h
  · exact .inl (KeepsError.refl t.wr herr)
  · exact .inr (.inl (by rw [hcons, List.head?_cons]))
  · obtain hkeeps | ⟨v, rfl, hbit, hclear⟩ := exec_error (encodeInvertsDecode a i hdec).1 hexec
    · exact .inl (hkeeps herr)
    · exact .inr (.inr ⟨v, hbit, by rw [hcons, List.head?_cons, eq_writeAt_of_decode_wrStatus hdec], hclear⟩)
  · exact .inl (KeepsError.refl s.wr herr)
  · exact .inl (KeepsError.refl s.wr herr)

end Sys2Proof.Machine
end

section
/-! PROOFS. What a reset leaves, whatever the state before, and what the registers read after it
(70_reset_and_hazards.md R340, R341). -/

namespace Sys2Proof.Machine

/-! ## The tables of quality 50 (10_state.md R30) -/

/-- At quality 50 a base entry in the range of the tables is kept (42_quant_zigzag.md R190, R192). -/
theorem quantEntry_quality50 {b : Nat} (h1 : 1 ≤ b) (h255 : b ≤ 255) : quantEntry b (scaleFactor 50) = b := by
  have hfactor : scaleFactor 50 = 100 := rfl
  rw [hfactor, quantEntry]
  omega

/-- The table of any quality, in zigzag order (42_quant_zigzag.md R194). -/
theorem quantTable_toNat (base : List Nat) (q : Nat) :
    (quantTable base q).toList.map BitVec.toNat = unzz.map fun i => quantEntry (entry base i) (scaleFactor q) := by
  have hunzz : unzz = (List.range 64).map (entry unzz) := by decide
  conv_rhs => rw [hunzz]
  rw [quantTable, toList_tabulate, List.map_map, List.map_map]
  refine List.map_congr_left fun k _ => ?_
  have hrange := quantEntry_range (entry base (entry unzz k)) (scaleFactor q)
  rw [Function.comp_apply, Function.comp_apply, BitVec.toNat_ofNat]
  omega

/-- The table of quality 50 is the base table in zigzag order. -/
theorem quantTable_quality50 {base : List Nat} (h : ∀ i ∈ unzz, 1 ≤ entry base i ∧ entry base i ≤ 255) :
    (quantTable base 50).toList.map BitVec.toNat = unzz.map (entry base) := by
  rw [quantTable_toNat]
  refine List.map_congr_left fun i hi => ?_
  obtain ⟨h1, h255⟩ := h i hi
  exact quantEntry_quality50 h1 h255

/-- Entry 0 of a table window at quality 50 (40_commands.md R147). -/
theorem windowWord_zero_quality50 {base : List Nat} (h1 : 1 ≤ entry base 0) (h255 : entry base 0 ≤ 255) :
    ((quantTable base 50).toList.getD (0#6).toNat 0#8).setWidth 32 = BitVec.ofNat 32 (entry base 0) := by
  have hentry : ((quantTable base 50).toList.getD (0#6).toNat 0#8).toNat = entry base 0 :=
    (quantTable_entry base 50 (i := 0) (by decide)).trans (quantEntry_quality50 h1 h255)
  rw [← BitVec.ofNat_toNat, hentry]

/-! ## The reset state -/

/-- A read of a register whose value is known. -/
theorem readValue_eq {v w : Word} (h : v = w) (s : State) : readValue v s = .next { s with rdata := w } := by
  rw [h]
  rfl

/-- STATUS after reset has OUT_VALID set alone. -/
theorem statusWord_resetWith (p : Params) : statusWord (State.resetWith p) = 0x00000020#32 := by
  simp [statusWord, bitAt, State.resetWith, Writer.reset]

/-- Settles O10: the elements by the definition of the reset state, the tables by what quality 50 makes of the base
tables, and each read by the element it shows. -/
theorem resetLeavesTheResetState : Obligations.ResetLeavesTheResetState := by
  refine ⟨rfl, rfl, ?_⟩
  rintro ⟨maxPixels, maxOut, quality, tailPad⟩ hq
  obtain rfl : quality = 50#8 := hq
  intro s
  have hstatus : statusWord s = 0x00000020#32 := statusWord_resetWith _
  have hquality : (50#8).setWidth 32 ||| (50#8).setWidth 32 <<< 8 ||| bitAt 16 false = 0x00003232#32 := by decide
  have hbitacc : (0#8).setWidth 32 ||| (7#3).setWidth 32 <<< 8 = 0x00000700#32 := by decide
  have hqtY := windowWord_zero_quality50 (base := yqt) (by decide) (by decide)
  have hqtC := windowWord_zero_quality50 (base := cqt) (by decide) (by decide)
  refine ⟨⟨rfl, rfl, rfl, rfl⟩, ⟨rfl, rfl, rfl⟩, quantTable_quality50 (by decide), quantTable_quality50 (by decide),
    rfl, rfl, ⟨rfl, rfl, rfl, rfl, rfl⟩, fun _ => rfl, ⟨rfl, rfl, rfl⟩, ⟨rfl, rfl, rfl, rfl⟩, ⟨rfl, rfl, rfl⟩,
    ⟨rfl, rfl, rfl⟩, rfl, rfl, rfl, readValue_eq hstatus s, readValue_eq hquality s, readValue_eq hbitacc s,
    readValue_eq hqtY s, readValue_eq hqtC s, fun i hi => ?_⟩
  simp only [List.mem_cons, List.not_mem_nil, or_false] at hi
  obtain rfl | rfl | rfl | rfl | rfl | rfl | rfl | rfl | rfl | rfl | rfl | rfl | rfl | rfl | rfl := hi
  all_goals rfl

/-- Settles O11: serving a reset is the platform's reset, which takes from the state before it the parameters, the
accesses still to come and the count of resets alone. -/
theorem platformResetForgetsTheSession : Obligations.PlatformResetForgetsTheSession := fun _ => rfl

end Sys2Proof.Machine
end
